-- ==== Sys2Proof/Word.lean ====
section
/-! DEFINITION. The word types of the VRR and the byte lanes of a pixel
(spec/00_scope.md rules R11 to R13). -/

namespace Sys2Proof

/-- A 32-bit word: the default width of every value (rule R12, `UINTW = INTW = 32`), of a packet word
(rule R70) and of a surface-native pixel (rule R8, `PIXW`). -/
abbrev Word := BitVec 32

/-- An 8-bit colour code or channel component (rules R8 and R91). -/
abbrev Byte := BitVec 8

/-- `lane_k(x) = x[8k+7 : 8k]` (rule R13). -/
def lane (k : Nat) (x : Word) : Byte := x.extractLsb' (8 * k) 8

/-- A 1-bit flag zero-extended to a word (rules R173 and R176). -/
def flagWord (b : Bool) : Word := if b then 1 else 0

end Sys2Proof
end

