-- ==== Sys2Proof/Syntax.lean ====
section
/-! DEFINITION. The commands of the VRR: one constructor per mnemonic of spec/opcode_table.json
(spec/30_encoding.md rules R73, R75 and R77). -/

namespace Sys2Proof

/-- A host command with the operands of its packet, in the packet's order (rule R73). `deferred` is
the header bit `DEF`; `pid` is the property number of the two rows of an unknown property, 6 to 15. -/
inductive Instr where
  | tick
  | init
  | renderline (sampleLength lineNumber hsyncStart vsyncStart : Word)
  | setpropHoff (deferred : Bool) (value : Word)
  | setpropVoff (deferred : Bool) (value : Word)
  | setpropFullscreen (deferred : Bool) (value : Word)
  | setpropWidth (deferred : Bool) (value : Word)
  | setpropHeight (deferred : Bool) (value : Word)
  | setpropDebug (deferred : Bool) (value : Word)
  | setpropUnknown (pid : BitVec 4) (deferred : Bool) (value : Word)
  | getpropHoff
  | getpropVoff
  | getpropFullscreen
  | getpropWidth
  | getpropHeight
  | getpropDebug
  | getpropUnknown (pid : BitVec 4)
  | extractrow (rowIndex : Word)
deriving DecidableEq, Repr

/-- The mnemonic of spec/opcode_table.json (rule R77). -/
def Instr.mnemonic : Instr → String
  | .tick => "TICK"
  | .init => "INIT"
  | .renderline _ _ _ _ => "RENDERLINE"
  | .setpropHoff _ _ => "SETPROP.HOFF"
  | .setpropVoff _ _ => "SETPROP.VOFF"
  | .setpropFullscreen _ _ => "SETPROP.FULLSCREEN"
  | .setpropWidth _ _ => "SETPROP.WIDTH"
  | .setpropHeight _ _ => "SETPROP.HEIGHT"
  | .setpropDebug _ _ => "SETPROP.DEBUG"
  | .setpropUnknown _ _ _ => "SETPROP.UNKNOWN"
  | .getpropHoff => "GETPROP.HOFF"
  | .getpropVoff => "GETPROP.VOFF"
  | .getpropFullscreen => "GETPROP.FULLSCREEN"
  | .getpropWidth => "GETPROP.WIDTH"
  | .getpropHeight => "GETPROP.HEIGHT"
  | .getpropDebug => "GETPROP.DEBUG"
  | .getpropUnknown _ => "GETPROP.UNKNOWN"
  | .extractrow _ => "EXTRACTROW"

end Sys2Proof
end

