-- ==== Sys2Proof/WellFormed.lean ====
section
/-! DEFINITION. Which terms of `Instr` are commands of the block. Every operand is a whole word taken
as is (spec/30_encoding.md rule R74), so the only check is on the property number of the two
unknown-property rows (rules R76 and R77). -/

namespace Sys2Proof

/-- An unknown property number is one of 6 to 15 (rule R76). -/
def unknownPid (pid : BitVec 4) : Bool := decide (6 ≤ pid.toNat)

/-- A command of the block. -/
def Instr.wellFormed : Instr → Bool
  | .tick => true
  | .init => true
  | .renderline _ _ _ _ => true
  | .setpropHoff _ _ => true
  | .setpropVoff _ _ => true
  | .setpropFullscreen _ _ => true
  | .setpropWidth _ _ => true
  | .setpropHeight _ _ => true
  | .setpropDebug _ _ => true
  | .setpropUnknown pid _ _ => unknownPid pid
  | .getpropHoff => true
  | .getpropVoff => true
  | .getpropFullscreen => true
  | .getpropWidth => true
  | .getpropHeight => true
  | .getpropDebug => true
  | .getpropUnknown pid => unknownPid pid
  | .extractrow _ => true

end Sys2Proof
end

