-- ==== Sys2Proof/Decode.lean ====
section
/-! DEFINITION. The decoder of the command port, total on every word stream and rejecting by name, and
after it the encoder, the assembler lines and the pseudo-commands (spec/30_encoding.md rules R70 to
R86). -/

namespace Sys2Proof

/-! ## Header fields (rule R72) -/

/-- `OP`, bits [3:0]. -/
def headerOp (h : Word) : BitVec 4 := h.extractLsb' 0 4

/-- `PID`, bits [7:4]. -/
def headerPid (h : Word) : BitVec 4 := h.extractLsb' 4 4

/-- `DEF`, bit [8]. -/
def headerDef (h : Word) : Bool := h.getLsbD 8

/-- `RSV`, bits [31:9]. -/
def headerRsv (h : Word) : BitVec 23 := h.extractLsb' 9 23

/-- Why a word stream does not begin with a complete legal packet. -/
inductive Reject where
  /-- `OP` is in 6..15 (rule R79) -/
  | reservedOp
  /-- `RSV` is not 0 (rule R79) -/
  | reservedBits
  /-- `PID` is not 0 and `OP` is neither SETPROP nor GETPROP (rule R79) -/
  | propertyField
  /-- `DEF` is 1 and `OP` is not SETPROP (rule R79) -/
  | deferField
  /-- the stream ends inside the packet (rule R81) -/
  | truncated
  /-- the stream is empty -/
  | noWord
deriving DecidableEq, Repr

/-- The illegal headers of rule R79; `none` for a legal one. -/
def headerReject (h : Word) : Option Reject :=
  if 6 ≤ (headerOp h).toNat then some .reservedOp
  else if headerRsv h ≠ 0 then some .reservedBits
  else if headerPid h ≠ 0 ∧ headerOp h ≠ 3 ∧ headerOp h ≠ 4 then some .propertyField
  else if headerDef h = true ∧ headerOp h ≠ 3 then some .deferField
  else none

/-- How many operand words follow the header: a function of `OP` alone (rules R71 and R75). -/
def operandCount (op : BitVec 4) : Nat :=
  match op.toNat with
  | 2 => 4
  | 3 => 1
  | 5 => 1
  | _ => 0

/-- The packet length of rules R71 and R81: 1 for an illegal header. -/
def packetLength (h : Word) : Nat :=
  if headerReject h = none then 1 + operandCount (headerOp h) else 1

/-! ## The decoder -/

/-- SETPROP by property number (rules R76 and R77). -/
def setprop (pid : BitVec 4) (deferred : Bool) (value : Word) : Instr :=
  match pid.toNat with
  | 0 => .setpropHoff deferred value
  | 1 => .setpropVoff deferred value
  | 2 => .setpropFullscreen deferred value
  | 3 => .setpropWidth deferred value
  | 4 => .setpropHeight deferred value
  | 5 => .setpropDebug deferred value
  | _ => .setpropUnknown pid deferred value

/-- GETPROP by property number (rules R76 and R77). -/
def getprop (pid : BitVec 4) : Instr :=
  match pid.toNat with
  | 0 => .getpropHoff
  | 1 => .getpropVoff
  | 2 => .getpropFullscreen
  | 3 => .getpropWidth
  | 4 => .getpropHeight
  | 5 => .getpropDebug
  | _ => .getpropUnknown pid

/-- The command of a legal header from the words after it, with the words it leaves (rules R73 and
R75). -/
def decodeOperands (op pid : BitVec 4) (deferred : Bool) (ws : List Word) :
    Except Reject (Instr × List Word) :=
  match op.toNat, ws with
  | 0, rest => .ok (.tick, rest)
  | 1, rest => .ok (.init, rest)
  | 2, sampleLength :: lineNumber :: hsyncStart :: vsyncStart :: rest =>
      .ok (.renderline sampleLength lineNumber hsyncStart vsyncStart, rest)
  | 2, _ => .error .truncated
  | 3, value :: rest => .ok (setprop pid deferred value, rest)
  | 3, [] => .error .truncated
  | 4, rest => .ok (getprop pid, rest)
  | 5, rowIndex :: rest => .ok (.extractrow rowIndex, rest)
  | 5, [] => .error .truncated
  | _, _ => .error .reservedOp

/-- The first command of a word stream and the words after its packet. -/
def decode : List Word → Except Reject (Instr × List Word)
  | [] => .error .noWord
  | h :: ws =>
    match headerReject h with
    | some why => .error why
    | none => decodeOperands (headerOp h) (headerPid h) (headerDef h) ws

/-- What the block finds at its command port (rules R71, R79 and R81). -/
inductive Fetch where
  /-- a complete legal packet, and the words after it -/
  | command (i : Instr) (rest : List Word)
  /-- an illegal header; only that one word is consumed -/
  | illegal (why : Reject) (rest : List Word)
  /-- no word, or a truncated packet: the block waits -/
  | incomplete
deriving DecidableEq, Repr

/-- Reading the command port: every word sequence splits into packets, illegal single words and at
most one truncated packet at its end (rule R81). -/
def fetch (ws : List Word) : Fetch :=
  match decode ws with
  | .ok (i, rest) => .command i rest
  | .error .truncated => .incomplete
  | .error .noWord => .incomplete
  | .error why => .illegal why ws.tail

/-! ## The encoder (rules R72, R73 and R83) -/

/-- A header word from its fields, `RSV = 0` (rule R72). -/
def header (op pid : BitVec 4) (deferred : Bool) : Word :=
  op.setWidth 32 ||| (pid.setWidth 32 <<< 4) ||| (flagWord deferred <<< 8)

/-- The packet of a command (rule R83). -/
def encode : Instr → List Word
  | .tick => [header 0 0 false]
  | .init => [header 1 0 false]
  | .renderline sampleLength lineNumber hsyncStart vsyncStart =>
      [header 2 0 false, sampleLength, lineNumber, hsyncStart, vsyncStart]
  | .setpropHoff d v => [header 3 0 d, v]
  | .setpropVoff d v => [header 3 1 d, v]
  | .setpropFullscreen d v => [header 3 2 d, v]
  | .setpropWidth d v => [header 3 3 d, v]
  | .setpropHeight d v => [header 3 4 d, v]
  | .setpropDebug d v => [header 3 5 d, v]
  | .setpropUnknown pid d v => [header 3 pid d, v]
  | .getpropHoff => [header 4 0 false]
  | .getpropVoff => [header 4 1 false]
  | .getpropFullscreen => [header 4 2 false]
  | .getpropWidth => [header 4 3 false]
  | .getpropHeight => [header 4 4 false]
  | .getpropDebug => [header 4 5 false]
  | .getpropUnknown pid => [header 4 pid false]
  | .extractrow rowIndex => [header 5 0 false, rowIndex]

/-! ## Assembler lines and pseudo-commands (rules R82 and R86) -/

/-- `SETPROP <prop>, <value>[, DEFER]`, the value as a signed decimal (rule R82). -/
def asmSetprop (prop : String) (deferred : Bool) (value : Word) : String :=
  "SETPROP " ++ prop ++ ", " ++ toString value.toInt ++ (if deferred then ", DEFER" else "")

/-- The assembler line of a command (rule R82), numbers in decimal. -/
def asm : Instr → String
  | .tick => "TICK"
  | .init => "INIT"
  | .renderline a l h v =>
      "RENDERLINE " ++ toString a.toNat ++ ", " ++ toString l.toNat ++ ", " ++ toString h.toNat
        ++ ", " ++ toString v.toNat
  | .setpropHoff d v => asmSetprop "HOFF" d v
  | .setpropVoff d v => asmSetprop "VOFF" d v
  | .setpropFullscreen d v => asmSetprop "FULLSCREEN" d v
  | .setpropWidth d v => asmSetprop "WIDTH" d v
  | .setpropHeight d v => asmSetprop "HEIGHT" d v
  | .setpropDebug d v => asmSetprop "DEBUG" d v
  | .setpropUnknown pid d v => asmSetprop ("#" ++ toString pid.toNat) d v
  | .getpropHoff => "GETPROP HOFF"
  | .getpropVoff => "GETPROP VOFF"
  | .getpropFullscreen => "GETPROP FULLSCREEN"
  | .getpropWidth => "GETPROP WIDTH"
  | .getpropHeight => "GETPROP HEIGHT"
  | .getpropDebug => "GETPROP DEBUG"
  | .getpropUnknown pid => "GETPROP #" ++ toString pid.toNat
  | .extractrow r => "EXTRACTROW " ++ toString r.toNat

/-- `CAPTURE`: one EXTRACTROW per raster row, in ascending order (rule R86). -/
def captureCommands (height : Nat) : List Instr :=
  (List.range height).map fun r => .extractrow (BitVec.ofNat 32 r)

/-- `NOP` is TICK (rule R86). -/
def nopCommand : Instr := .tick

/-- `REINIT` is INIT (rule R86). -/
def reinitCommand : Instr := .init

/-- `APPLY`: SETPROP FULLSCREEN of the stored flag without `DEFER` (rule R86). -/
def applyCommand (fullscreen : Bool) : Instr := .setpropFullscreen false (flagWord fullscreen)

/-! ## The words of a row of spec/opcode_table.json -/

/-- The words of an instruction whose `nbits` low bits are those of `w`, bit 0 the least significant
bit of the header and every higher bit 0, up to the longest packet of 5 words (rule R81). -/
def tableWords (nbits w : Nat) : List Word :=
  (List.range 5).map fun k => BitVec.ofNat 32 ((w % 2 ^ nbits) >>> (32 * k))

/-- Of those words, exactly the packet of the header. -/
def tablePacket (nbits w : Nat) : List Word :=
  (tableWords nbits w).take (packetLength (BitVec.ofNat 32 (w % 2 ^ nbits)))

/-- The instruction the decoder reads from a row's word. -/
def decodeTableWord (nbits w : Nat) : Option Instr :=
  match decode (tableWords nbits w) with
  | .ok (i, _) => some i
  | .error _ => none

end Sys2Proof
end

