-- ==== Sys2Proof/Config.lean ====
section
/-! DEFINITION. What one instance of the block fixes for its life (the strap and the open reset
parameters of spec/00_scope.md rule R9), and the free values: what the spec calls unspecified. -/

namespace Sys2Proof

/-- The two values of the parameter `FULL_ROW` (rule R9, 92_eei_decisions.md D11): which of the two
rows of a pair receives the full-intensity output. -/
inductive FullRow where
  /-- row `voff XOR 1` is the full row -/
  | paired
  /-- row `voff` is the full row -/
  | current
deriving DecidableEq, Repr

/-- The open parameters of rule R9 that are fixed for the life of one block: the geometry strap
`DEBUG` (92_eei_decisions.md D31) and the reset values of the three writable properties (D15). -/
structure Strap where
  /-- `DEBUG`: selects the debug geometry (rule R10) -/
  debug : Bool
  /-- `HOFF_RESET`, in `0 .. HOFF_MAX` -/
  hoffReset : Word
  /-- `VOFF_RESET`, in `0 .. VOFF_MAX` -/
  voffReset : Word
  /-- `FULLSCREEN_RESET` -/
  fullscreenReset : Bool
deriving DecidableEq, Repr

/-- The defaults of rule R9: the three reset parameters are 0.
DESIGN CHOICE (log entry 4): `DEBUG` is open, and the normal geometry is taken for `State.reset`. -/
def Strap.default : Strap :=
  { debug := false, hoffReset := 0, voffReset := 0, fullscreenReset := false }

namespace Config

/-! The free values (log entries 1 and 2). None has a body, so nothing in Lean can evaluate one.
Those of the block's own memories and of the latched format take first the number of the draw: each
initialisation and each hardware reset makes a fresh draw. -/

/-- `SMP[k]` while the host has not written it (spec/93_implementation_defined.md U3, U16). -/
opaque freeSample : Nat → Byte

/-- `DST[i]` while neither the host nor an EXTRACTROW has written it (U3). -/
opaque freeDst : Nat → Word

/-- `PAL[c]` of a draw no palette was built for: before the first initialisation, after a failed one,
and for a format that is not well-formed (U2, U3, U5). -/
opaque freePalette : Nat → Nat → Word

/-- `RASTER[r][c]` of a draw, until the row is written or blanked (U1, U2, U3; `RASTER_INIT`). -/
opaque freeRaster : Nat → Nat → Nat → Word

/-- `FILLED[r]` after hardware reset or a failed initialisation (U2, U3). -/
opaque freeFilled : Nat → Nat → Bool

/-- `CR.RMASK` after a failed initialisation (rule R41). -/
opaque freeRmask : Nat → Word

/-- `CR.GMASK` after a failed initialisation (rule R41). -/
opaque freeGmask : Nat → Word

/-- `CR.BMASK` after a failed initialisation (rule R41). -/
opaque freeBmask : Nat → Word

/-- `CR.BPP` after a failed initialisation (rule R41). -/
opaque freeBpp : Nat → Byte

/-- `SHIFTOF(0)`: the source defines no bit-scan of a zero mask (rules R144 and R148 (d), U6). One
implementation's scan is one function, so this is one constant; it keeps the bound of rule R179 (d): a
shift amount is in `0 .. 31`. -/
opaque shiftOfZero : Fin 32

end Config

end Sys2Proof
end

