-- ==== Sys2Proof/Machine/State.lean ====
section
/-! DEFINITION. The state of the VRR as plain data (spec/10_state.md), the two parties that drive it
(host and environment) as data beside it, and the state after hardware reset (rule R39). -/

namespace Sys2Proof.Machine

/-- Why the block takes no further step. No command ever raises one (spec/60_exceptions.md rule
R190). -/
inductive Fault where
  /-- Raised by `step` when no word is on the port and the host has nothing left to do: the run is
  over (rule R224). Safe: the model stops where the block goes on waiting. -/
  | noCommand
  /-- Raised by `step` when the port holds only the beginning of a packet and the host has nothing left
  to do: a truncated packet is never executed (rule R81, 93_implementation_defined.md U14). Safe: the
  model stops where the block goes on waiting. -/
  | truncatedPacket
deriving DecidableEq, Repr

/-- Why an instruction has no meaning. -/
inductive Refusal where
  /-- Raised by an arm of `exec` for an instruction without a meaning, by name; no arm does. Safe. -/
  | notModelled (mnemonic : String)
deriving DecidableEq, Repr

/-- The two operating states, `CR.MODE` = 0 and 1 (rules R22 and R120). -/
inductive Mode where
  | uninitialized
  | initialized
deriving DecidableEq, Repr

/-- The response of a command: the word `RSP` and the flag `ILL` (spec/30_encoding.md rule R80). -/
structure Response where
  rsp : Word
  ill : Bool
deriving DecidableEq, Repr

/-- The environment's answer to `surface_query` (spec/42_frame_assembler.md rule R122). -/
structure SurfaceAnswer where
  ok : Bool
  bpp : Byte
  rmask : Word
  gmask : Word
  bmask : Word
deriving DecidableEq, Repr

/-- What `surface_query` asks for: width, height and the fullscreen flag (rule R122). -/
structure SurfaceQuery where
  width : Word
  height : Word
  fullscreen : Bool
deriving DecidableEq, Repr

/-- What the host and the environment do at the block's pins between two commands (log entry 5). -/
inductive HostAction where
  /-- the host presents words at the command port (rule R70) -/
  | present (ws : List Word)
  /-- the host sets all 2048 entries of `SMP` (rule R85, `.smp fill`) -/
  | smpFill (c : Byte)
  /-- the host sets one entry of `SMP` (rule R85, `.smp [i] = c`) -/
  | smpWrite (i : BitVec 11) (c : Byte)
  /-- the host sets every entry of its memory `DST` (spec/20_memory.md rule R66, poisoning) -/
  | dstFill (w : Word)
  /-- the host sets one entry of its memory `DST` (log entry 15) -/
  | dstWrite (i : Nat) (w : Word)
  /-- the environment changes the answer it gives to later surface queries (rule R85, `.surface`) -/
  | surface (a : SurfaceAnswer)
  /-- hardware reset (spec/70_reset_and_hazards.md rule R210) -/
  | hardReset
deriving DecidableEq, Repr

/-- A sparse memory: (index, entry) pairs, indices strictly rising (`Memory.wf`). -/
abbrev Cells (α : Type) := List (Nat × α)

/-- The five memory spaces (spec/20_memory.md rule R50). An index that is not listed reads as the free
value that `Memory.readSmp` and its siblings name. -/
structure Memory where
  /-- the number of the draw that `PAL`, `RASTER` and `FILLED` took their unspecified entries from (the
  model's own counter, log entry 1) -/
  draw : Nat
  /-- `SMP`: 2048 colour codes, the host's (rule R51) -/
  smp : Cells Byte
  /-- `PAL`: 256 native pixels (rule R52) -/
  pal : Cells Word
  /-- `RASTER`: `HEIGHT` rows of `WIDTH` native pixels, written a whole row at a time (rule R53,
  log entry 14) -/
  raster : Cells (List Word)
  /-- `FILLED`: one flag per raster row (rule R23) -/
  filled : Cells Bool
  /-- `DST`: `WIDTH` words, the host's (rules R33 and R66, log entry 15) -/
  dst : Cells Word
deriving DecidableEq, Repr

/-- The machine. `CR.WIDTH`, `CR.HEIGHT` and `CR.DEBUG` are views of the strap (rule R28):
`State.width`, `State.height` and `State.debug`. -/
structure State where
  /-- the construction-time parameters of this block (rule R9) -/
  strap : Strap
  /-- `CR.MODE` (rule R22) -/
  mode : Mode
  /-- `CR.HOFF` (rule R25) -/
  hoff : Word
  /-- `CR.VOFF` (rule R26) -/
  voff : Word
  /-- `CR.FULLSCREEN`, the stored request (rule R27) -/
  fullscreen : Bool
  /-- `CR.FS_ACTIVE`, the applied flag and output pin (rule R29) -/
  fsActive : Bool
  /-- `CR.PREVLINE` (rule R30) -/
  prevline : Word
  /-- `CR.RMASK` (rule R31) -/
  rmask : Word
  /-- `CR.GMASK` (rule R31) -/
  gmask : Word
  /-- `CR.BMASK` (rule R31) -/
  bmask : Word
  /-- `CR.BPP` (rule R31) -/
  bpp : Byte
  /-- the five memory spaces -/
  mem : Memory
  /-- `FRAME_EVENTS`, the events since hardware reset (rule R34) -/
  frameEvents : Nat
  /-- the words presented at the command port and not yet consumed, first one first -/
  port : List Word
  /-- what the host and the environment do next, first one first (log entry 5) -/
  host : List HostAction
  /-- the environment's current answer to `surface_query` (rule R122, log entry 7) -/
  surface : SurfaceAnswer
  /-- output: the surface queries made, newest first (log entry 6) -/
  queries : List SurfaceQuery
  /-- output: the responses given, newest first (rule R80, log entry 6) -/
  responses : List Response
deriving DecidableEq, Repr

/-- The answer the environment gives unless told otherwise: the format XRGB of the header of
spec/95_test_vectors.md. DESIGN CHOICE (log entry 7). -/
def defaultSurface : SurfaceAnswer :=
  { ok := true, bpp := 4, rmask := 0x00FF0000, gmask := 0x0000FF00, bmask := 0x000000FF }

/-- The block after power-on, for any strap (rules R39 and R210): Uninitialized, the properties at
their reset parameters, the latched format 0 (DESIGN CHOICE, log entry 3), nothing listed in any
memory. -/
def State.resetOf (p : Strap) : State :=
  { strap := p
    mode := .uninitialized
    hoff := p.hoffReset
    voff := p.voffReset
    fullscreen := p.fullscreenReset
    fsActive := false
    prevline := 0
    rmask := 0
    gmask := 0
    bmask := 0
    bpp := 0
    mem := { draw := 0, smp := [], pal := [], raster := [], filled := [], dst := [] }
    frameEvents := 0
    port := []
    host := []
    surface := defaultSurface
    queries := []
    responses := [] }

/-- The state after hardware reset with the default parameters. -/
def State.reset : State := State.resetOf Strap.default

end Sys2Proof.Machine
end

