-- ==== Sys2Proof/Machine/Ops.lean ====
section
/-! DEFINITION. The shared operations: geometry, the memory spaces, the response, the reallocation
that every initialisation and reset makes, and what the host does between two commands. The block has
no trap entry and no trap return (spec/60_exceptions.md rules R190, R198 and R199): a failure is an
answer, and the illegal header of rule R194 is answered here. -/

namespace Sys2Proof.Machine

/-! ## Geometry (spec/00_scope.md rules R8 to R10) -/

/-- `WIDTH`: 618 normal, 792 debug. -/
def width (debug : Bool) : Nat := if debug then 792 else 618

/-- `HEIGHT`: 448 normal, 530 debug. -/
def height (debug : Bool) : Nat := if debug then 530 else 448

/-- `SMP_DEPTH`. -/
def smpDepth : Nat := 2048

/-- `PAL_DEPTH`. -/
def palDepth : Nat := 256

/-- `LINES_TOTAL`. -/
def linesTotal : Nat := 525

/-- `CONSUMED = (WIDTH div 3) * 7` (92_eei_decisions.md D13). -/
def consumed (debug : Bool) : Nat := width debug / 3 * 7

/-- `HOFF_MAX = 2048 - CONSUMED` (D13): 606 normal, 200 debug. -/
def hoffMax (debug : Bool) : Nat := smpDepth - consumed debug

/-- `VOFF_MAX = max(0, 525 - HEIGHT)` (D14): 77 normal, 0 debug; natural subtraction is that maximum. -/
def voffMax (debug : Bool) : Nat := linesTotal - height debug

/-- `BLANK` (D34). -/
def blank : Word := 0

/-- `CR.DEBUG` (rule R28). -/
def State.debug (s : State) : Bool := s.strap.debug

/-- `CR.WIDTH` (rule R28). -/
def State.width (s : State) : Nat := Machine.width s.debug

/-- `CR.HEIGHT` (rule R28). -/
def State.height (s : State) : Nat := Machine.height s.debug

/-! ## Sparse memories -/

/-- The entry listed at an index. -/
def Cells.find {α : Type} : Cells α → Nat → Option α
  | [], _ => none
  | (k, x) :: m, i => if k = i then some x else Cells.find m i

/-- One write, keeping the indices rising. -/
def Cells.put {α : Type} : Cells α → Nat → α → Cells α
  | [], i, x => [(i, x)]
  | (k, y) :: m, i, x =>
    if i < k then (i, x) :: (k, y) :: m
    else if i = k then (i, x) :: m
    else (k, y) :: Cells.put m i x

/-- Rewriting the indices `0 .. n-1`: index `k` then lists `f k`, or nothing where that is `none`. -/
def Cells.rebuild {α : Type} (n : Nat) (f : Nat → Option α) (m : Cells α) : Cells α :=
  (List.range n).filterMap (fun k => (f k).map (Prod.mk k)) ++ m.filter (fun e => decide (n ≤ e.1))

/-- The canonical form: indices strictly rising and below the size of the space (log entry 12). -/
abbrev Cells.wf {α : Type} (n : Nat) (m : Cells α) : Prop :=
  (m.map Prod.fst).Pairwise (· < ·) ∧ ∀ e ∈ m, e.1 < n

/-- The canonical form of the five spaces; a listed raster row has `WIDTH` pixels. -/
abbrev Memory.wf (debug : Bool) (m : Memory) : Prop :=
  Cells.wf smpDepth m.smp ∧ Cells.wf palDepth m.pal
    ∧ (Cells.wf (height debug) m.raster ∧ ∀ e ∈ m.raster, e.2.length = width debug)
    ∧ Cells.wf (height debug) m.filled ∧ Cells.wf (width debug) m.dst

/-! ## Reads of the five spaces (spec/20_memory.md rule R50): what an unlisted entry reads as stands
here, and only here -/

/-- `SMP[k]`, `k` in `0..2047` (rule R51). -/
def Memory.readSmp (m : Memory) (k : Nat) : Byte := (Cells.find m.smp k).getD (Config.freeSample k)

/-- `PAL[c]` (rule R52). -/
def Memory.readPal (m : Memory) (c : Nat) : Word :=
  (Cells.find m.pal c).getD (Config.freePalette m.draw c)

/-- `RASTER[r][c]` (rule R53). -/
def Memory.readRaster (m : Memory) (r c : Nat) : Word :=
  ((Cells.find m.raster r).bind fun row => row[c]?).getD (Config.freeRaster m.draw r c)

/-- `DST[i]` (rule R33). -/
def Memory.readDst (m : Memory) (i : Nat) : Word := (Cells.find m.dst i).getD (Config.freeDst i)

/-! ## Writes -/

/-- `for c in 0..WIDTH-1: RASTER[r][c] <- row[c]`. -/
def Memory.writeRow (m : Memory) (r : Nat) (row : List Word) : Memory :=
  { m with raster := Cells.put m.raster r row }

/-- `for c in 0..255: PAL[c] <- f c`. -/
def Memory.writePal (m : Memory) (f : Nat → Word) : Memory :=
  { m with pal := Cells.rebuild palDepth (fun c => some (f c)) m.pal }

/-- `for i in 0..n-1: DST[i] <- f i`. -/
def Memory.writeDst (m : Memory) (n : Nat) (f : Nat → Word) : Memory :=
  { m with dst := Cells.rebuild n (fun i => some (f i)) m.dst }

/-- `PAL`, `RASTER` and `FILLED` become unspecified: a fresh draw of free values (rules R40 and R41,
92_eei_decisions.md D17; log entry 1). -/
def Memory.reallocate (m : Memory) : Memory :=
  { m with draw := m.draw + 1, pal := [], raster := [], filled := [] }

/-! ## The response (spec/30_encoding.md rule R80) -/

/-- `respond(v)`: `RSP = v`, `ILL = 0` (spec/00_scope.md rule R16). -/
def State.respond (s : State) (v : Word) : State :=
  { s with responses := { rsp := v, ill := false } :: s.responses }

/-- The answer to an illegal header: no state change, `RSP = 0`, `ILL = 1` (rules R79 and R194,
failure class F4). -/
def State.answerIllegal (s : State) : State :=
  { s with responses := { rsp := 0, ill := true } :: s.responses }

/-! ## The host and the environment between two commands -/

/-- Hardware reset of a running block (rule R210): the block's own state as `State.resetOf` leaves it,
a fresh draw for its memories, the words on the port dropped. `SMP` and `DST` are the host's and stay
what the host wrote (93_implementation_defined.md U3); the environment, the host's script and the
output histories are outside the block (log entry 11). -/
def State.hardReset (s : State) : State :=
  { State.resetOf s.strap with
    mem := s.mem.reallocate
    host := s.host
    surface := s.surface
    queries := s.queries
    responses := s.responses }

/-- One action of the host or the environment (log entry 5). An index outside `DST` names no entry. -/
def State.applyHost (a : HostAction) (s : State) : State :=
  match a with
  | .present ws => { s with port := s.port ++ ws }
  | .smpFill c => { s with mem := { s.mem with smp := Cells.rebuild smpDepth (fun _ => some c) s.mem.smp } }
  | .smpWrite i c => { s with mem := { s.mem with smp := Cells.put s.mem.smp i.toNat c } }
  | .dstFill w => { s with mem := s.mem.writeDst s.width (fun _ => w) }
  | .dstWrite i w =>
      if i < s.width then { s with mem := { s.mem with dst := Cells.put s.mem.dst i w } } else s
  | .surface a => { s with surface := a }
  | .hardReset => s.hardReset

/-- The host's turn, taken while no complete packet is on the port (spec/70_reset_and_hazards.md rules
R210 and R214): its next action, or the end of the run (log entry 10). -/
def State.hostTurn (s : State) : Host.Outcome State Fault Refusal :=
  match s.host with
  | a :: later => .next (State.applyHost a { s with host := later })
  | [] => if s.port = [] then .fault .noCommand else .fault .truncatedPacket

end Sys2Proof.Machine
end

