-- ==== Sys2Proof/Machine/Operands.lean ====
section
/-! DEFINITION. The operand forms: an operand is one whole word taken as is (spec/30_encoding.md rule
R74); what a command does with it before it is stored or used as an index stands here. -/

namespace Sys2Proof.Machine

/-- `clamp(v, lo, hi)`: `lo` if `v <s lo`, `hi` if `hi <s v`, else `v` (spec/00_scope.md rule R12). -/
def clamp (v lo hi : Word) : Word := if v.slt lo then lo else if hi.slt v then hi else v

/-- The stored `HOFF` for a SETPROP operand (spec/44_property_store.md rule R162). -/
def hoffOperand (debug : Bool) (value : Word) : Word :=
  clamp value 0 (BitVec.ofNat 32 (hoffMax debug))

/-- The stored `VOFF` for a SETPROP operand (rule R163). -/
def voffOperand (debug : Bool) (value : Word) : Word :=
  clamp value 0 (BitVec.ofNat 32 (voffMax debug))

/-- The stored `FULLSCREEN` for a SETPROP operand: 1 for any non-zero value (rule R164, D25). -/
def fullscreenOperand (value : Word) : Bool := decide (value ≠ 0)

/-- The candidate row of a scanline, `lineNumber - CR.VOFF` modulo 2^32 (spec/42_frame_assembler.md
rule R128). -/
def rowOperand (s : State) (lineNumber : Word) : Word := lineNumber - s.voff

/-- `index <u HEIGHT`, the only range test of the block (spec/20_memory.md rule R54). -/
def inRaster (s : State) (index : Word) : Bool := decide (index.toNat < s.height)

/-- `voff XOR 1` (rule R129). -/
def pairedRow (voff : Word) : Word := voff ^^^ 1

/-- `ctz(m)`, the index of the lowest set bit; 32 for `m = 0`, which no rule uses (rules R12 and
R144). -/
def ctz (m : Word) : Nat := ((List.range 32).find? fun i => m.getLsbD i).getD 32

end Sys2Proof.Machine
end

