-- ==== Sys2Proof/Machine/Flags.lean ====
section
/-! DEFINITION. The flags: the row-filled flags (spec/10_state.md rule R23), the new-frame test and the
frame-ready event. The block has no arithmetic flag (spec/44_property_store.md rule R179); the
operating state `CR.MODE` is written by `Machine/FrameAssembler.lean` alone (rule R22). -/

namespace Sys2Proof.Machine

/-- `FILLED[r]`. -/
def Memory.readFilled (m : Memory) (r : Nat) : Bool :=
  (Cells.find m.filled r).getD (Config.freeFilled m.draw r)

/-- `FILLED[r] <- 1` (rule R129). -/
def Memory.markFilled (m : Memory) (r : Nat) : Memory :=
  { m with filled := Cells.put m.filled r true }

/-- `for r in 0..HEIGHT-1: FILLED[r] <- 0` (rules R123 and R127). -/
def Memory.clearFilled (m : Memory) (rows : Nat) : Memory :=
  { m with filled := Cells.rebuild rows (fun _ => some false) m.filled }

/-- The blanking pass: every row whose flag is clear becomes `BLANK` across its width, the others keep
their pixels (rule R127 (a)). -/
def Memory.blankUnfilled (m : Memory) (rows columns : Nat) : Memory :=
  { m with
    raster := Cells.rebuild rows
      (fun r => if m.readFilled r then Cells.find m.raster r else some (List.replicate columns blank))
      m.raster }

/-- The new-frame test `lineNumber <u CR.PREVLINE`, strict and unsigned (rule R126). -/
def newFrame (s : State) (lineNumber : Word) : Bool := lineNumber.ult s.prevline

/-- `emit frame_ready` (spec/60_exceptions.md rule R196). -/
def State.emitFrameReady (s : State) : State := { s with frameEvents := s.frameEvents + 1 }

end Sys2Proof.Machine
end

