-- ==== Sys2Proof/Machine/Palette.lean ====
section
/-! DEFINITION. The Palette Builder and the palette lookup (spec/40_palette.md). -/

namespace Sys2Proof.Machine

/-- `R8 = (c[2:0] * 255) div 7` (rule R91). -/
def expandRed (c : Byte) : Nat := (c.extractLsb' 0 3).toNat * 255 / 7

/-- `G8 = (c[5:3] * 255) div 7` (rule R91). -/
def expandGreen (c : Byte) : Nat := (c.extractLsb' 3 3).toNat * 255 / 7

/-- `B8 = (c[7:6] * 255) div 3` (rule R91). -/
def expandBlue (c : Byte) : Nat := (c.extractLsb' 6 2).toNat * 255 / 3

/-- The four channel masks of a well-formed format (spec/10_state.md rule R31). -/
def laneMasks : List Word := [0x000000FF, 0x0000FF00, 0x00FF0000, 0xFF000000]

/-- A well-formed format: each mask one whole byte lane, the three different (rule R31, D19). -/
def wellFormedFormat (rmask gmask bmask : Word) : Bool :=
  laneMasks.contains rmask && laneMasks.contains gmask && laneMasks.contains bmask
    && rmask != gmask && gmask != bmask && rmask != bmask

/-- The entry PALBUILD writes for colour code `c` (rule R92). -/
def paletteEntry (rmask gmask bmask : Word) (c : Byte) : Word :=
  (BitVec.ofNat 32 (expandRed c) <<< ctz rmask)
    ||| (BitVec.ofNat 32 (expandGreen c) <<< ctz gmask)
    ||| (BitVec.ofNat 32 (expandBlue c) <<< ctz bmask)

/-- PALBUILD on the latched masks (rule R92). For a format that is not well-formed the contents stay
unspecified (rule R93, log entry 8). -/
def Memory.buildPalette (m : Memory) (rmask gmask bmask : Word) : Memory :=
  if wellFormedFormat rmask gmask bmask then
    m.writePal fun c => paletteEntry rmask gmask bmask (BitVec.ofNat 8 c)
  else m

/-- PALLOOKUP: `PAL[ SMP[k & 0x7FF] ]` for any 32-bit `k` (rule R97). -/
def Memory.lookup (m : Memory) (k : Word) : Word :=
  m.readPal (m.readSmp (k &&& 0x7FF).toNat).toNat

end Sys2Proof.Machine
end

