-- ==== Sys2Proof/Machine/Resampler.lean ====
section
/-! DEFINITION. The Horizontal Resampler (spec/41_resampler.md). It reads two memories and no control
register and writes nothing (rule R101), so it is written over the palette lookup of rule R97. -/

namespace Sys2Proof.Machine

/-- `WEIGHTS[p]`, the five tap weights of output pixel `p` of a triple (spec/00_scope.md rule R8). -/
def weights : Nat → List Word
  | 0 => [4, 4, 4, 4, 1]
  | 1 => [2, 4, 5, 4, 2]
  | _ => [1, 4, 4, 4, 4]

/-- `TAP_START`, the first tap of output pixel `p` relative to the triple base (rule R9,
92_eei_decisions.md D10; log entry 13). -/
def tapStart : Nat → Word
  | 0 => -1
  | 1 => 1
  | _ => 3

/-- `N(k)`, the nibble-reduced tap (rule R102). -/
def tap (look : Word → Word) (k : Word) : Word := (look k &&& 0xF0F0F0F0) >>> 4

/-- The weighted sum of consecutive taps from index `k` on, in 32-bit arithmetic (rule R103). -/
def weighted (look : Word → Word) : List Word → Word → Word
  | [], _ => 0
  | w :: ws, k => w * tap look k + weighted look ws (k + 1)

/-- The first sample index of output pixel `i`: `off + 7*(i div 3) + TAP_START[i mod 3]` (rule R103). -/
def windowStart (off : Word) (i : Nat) : Word :=
  off + BitVec.ofNat 32 (7 * (i / 3)) + tapStart (i % 3)

/-- `dest0[i]`, the full-intensity output (rule R103). -/
def fullPixel (look : Word → Word) (off : Word) (i : Nat) : Word :=
  weighted look (weights (i % 3)) (windowStart off i)

/-- `dest1[i]` from `dest0[i]`: 3/4 intensity in every lane (rule R107). -/
def dim (x : Word) : Word := ((x &&& 0xFCFCFCFC) >>> 2) * 3

/-- `L = (len div 3) * 3`: the remainder is dropped (rules R101 and R109). -/
def pixelCount (len : Nat) : Nat := len / 3 * 3

/-- `RESAMPLE(off, len)`: the sequences `dest0` and `dest1` (rule R101). -/
def resample (look : Word → Word) (off : Word) (len : Nat) : List Word × List Word :=
  let dest0 := (List.range (pixelCount len)).map (fullPixel look off)
  (dest0, dest0.map dim)

end Sys2Proof.Machine
end

