-- ==== Sys2Proof/Machine/FrameAssembler.lean ====
section
/-! DEFINITION. The Frame Assembler: INITIALISE, INIT and RENDERLINE (spec/42_frame_assembler.md). -/

namespace Sys2Proof.Machine

/-- `FULL_ROW` (spec/00_scope.md rule R9, 92_eei_decisions.md D11; log entry 13). -/
def fullRow : FullRow := .paired

/-! ## INITIALISE (rule R123) -/

/-- The query of rule R122, carrying `(WIDTH, HEIGHT, CR.FULLSCREEN)`. -/
def State.surfaceQuery (s : State) : SurfaceQuery :=
  { width := BitVec.ofNat 32 s.width, height := BitVec.ofNat 32 s.height, fullscreen := s.fullscreen }

/-- Making the query; its answer is `s.surface`. -/
def State.query (s : State) : State := { s with queries := s.surfaceQuery :: s.queries }

/-- The two conditions under which initialisation succeeds: `ok`, and `bpp = 4` (rules R123 and
R191). -/
def SurfaceAnswer.usable (a : SurfaceAnswer) : Bool := a.ok && decide (a.bpp = 4)

/-- A successful initialisation (rule R40). -/
def State.initialised (s : State) : State :=
  { s with
    mode := .initialized
    rmask := s.surface.rmask
    gmask := s.surface.gmask
    bmask := s.surface.bmask
    bpp := 4
    fsActive := s.fullscreen
    prevline := 0
    mem := (s.mem.reallocate.buildPalette s.surface.rmask s.surface.gmask s.surface.bmask).clearFilled
      s.height }

/-- A failed initialisation (rule R41, failure class F1 of rule R191): Uninitialized, the latched format
and the block's memories unspecified (log entries 1 and 3). -/
def State.initFailed (s : State) : State :=
  { s with
    mode := .uninitialized
    rmask := Config.freeRmask (s.mem.draw + 1)
    gmask := Config.freeGmask (s.mem.draw + 1)
    bmask := Config.freeBmask (s.mem.draw + 1)
    bpp := Config.freeBpp (s.mem.draw + 1)
    mem := s.mem.reallocate }

/-- INITIALISE and the response of the command that runs it: 1 on success, 0 on failure. -/
def State.initialise (s : State) : State :=
  if s.surface.usable then s.query.initialised.respond 1 else s.query.initFailed.respond 0

/-- INIT (rule R121). -/
def execInit (s : State) : Host.Outcome State Fault Refusal := .next s.initialise

/-! ## RENDERLINE (rule R124) -/

/-- The frame-boundary actions in their order: blank, clear the flags, emit the event (rule R127). -/
def State.frameBoundary (s : State) : State :=
  State.emitFrameReady
    { s with mem := (s.mem.blankUnfilled s.height s.width).clearFilled s.height }

/-- Step 1: the boundary actions when the line number restarted (rules R126 and R127). -/
def State.detectFrame (s : State) (lineNumber : Word) : State :=
  if newFrame s lineNumber then s.frameBoundary else s

/-- The two resampled rows stored into row `voff` and its paired row, and both flags set (rule R129). -/
def Memory.writePair (m : Memory) (voff : Word) (rows : List Word × List Word) : Memory :=
  let stored := match fullRow with
    | .paired => (m.writeRow (pairedRow voff).toNat rows.1).writeRow voff.toNat rows.2
    | .current => (m.writeRow voff.toNat rows.1).writeRow (pairedRow voff).toNat rows.2
  (stored.markFilled voff.toNat).markFilled (pairedRow voff).toNat

/-- Step 2: vertical placement and the write of the row pair (rules R128 and R129). -/
def State.placeLine (s : State) (lineNumber : Word) : State :=
  if inRaster s (rowOperand s lineNumber) then
    { s with
      mem := s.mem.writePair (rowOperand s lineNumber) (resample s.mem.lookup s.hoff s.width) }
  else s

/-- Step 3: `CR.PREVLINE <- lineNumber`, whatever step 2 did (rule R130). -/
def State.recordLine (s : State) (lineNumber : Word) : State := { s with prevline := lineNumber }

/-- RENDERLINE (rules R124 and R125). No rule reads `sampleLength`, `hsyncStart` and `vsyncStart`. -/
def execRenderline (_sampleLength lineNumber _hsyncStart _vsyncStart : Word) (s : State) :
    Host.Outcome State Fault Refusal :=
  if s.mode = .uninitialized then .next (s.respond 0)
  else .next ((((s.detectFrame lineNumber).placeLine lineNumber).recordLine lineNumber).respond 0)

end Sys2Proof.Machine
end

