-- ==== Sys2Proof/Machine/ChannelRemapper.lean ====
section
/-! DEFINITION. The Channel Remapper: SHIFTOF and EXTRACTROW (spec/43_channel_remapper.md). -/

namespace Sys2Proof.Machine

/-- The narrowing loop of rule R143, at most `n` turns: while the working mask exceeds `0xFF`, shift it
by one and count. -/
def narrow : Nat → Word → Nat → Nat
  | 0, _, sh => sh
  | n + 1, wm, sh => if 0xFF < wm.toNat then narrow n (wm >>> 1) (sh + 1) else sh

/-- `SHIFTOF(m)` (rule R143; the loop turns at most 24 times). `SHIFTOF(0)` is a free value in `0 .. 31`
(rules R148 (d) and R179 (d), log entry 9). -/
def shiftOf (m : Word) : Nat :=
  if m = 0 then Config.shiftOfZero.val else narrow 24 (m >>> ctz m) (ctz m)

/-- The output word of rule R145. -/
def extractPixel (rsh gsh bsh : Nat) (src : Word) : Word :=
  (((src >>> rsh) &&& 0xFF) <<< 16) ||| (((src >>> gsh) &&& 0xFF) <<< 8) ||| ((src >>> bsh) &&& 0xFF)

/-- The output word for the latched format (rules R140 and R145). -/
def State.remap (s : State) (src : Word) : Word :=
  extractPixel (shiftOf s.rmask) (shiftOf s.gmask) (shiftOf s.bmask) src

/-- The three tests of EXTRACTROW (rule R142). -/
def State.extractable (s : State) (rowIndex : Word) : Bool :=
  decide (s.mode = .initialized) && decide (s.bpp = 4) && inRaster s rowIndex

/-- EXTRACTROW (rule R141): the whole row into `DST`, or a silent no-op (rule R142, failure class F3). -/
def execExtractrow (rowIndex : Word) (s : State) : Host.Outcome State Fault Refusal :=
  if s.extractable rowIndex then
    .next (State.respond
      { s with mem := s.mem.writeDst s.width fun i => s.remap (s.mem.readRaster rowIndex.toNat i) } 0)
  else .next (s.respond 0)

end Sys2Proof.Machine
end

