-- ==== Sys2Proof/Machine/PropertyStore.lean ====
section
/-! DEFINITION. The Property Store and TICK (spec/44_property_store.md). Every command here works in
both operating states (rule R160). -/

namespace Sys2Proof.Machine

/-! ## SETPROP (rules R161 to R168); `DEF` has an effect on FULLSCREEN only (D37) -/

/-- SETPROP.HOFF (rule R162). -/
def execSetpropHoff (_deferred : Bool) (value : Word) (s : State) :
    Host.Outcome State Fault Refusal :=
  .next (State.respond { s with hoff := hoffOperand s.debug value } 1)

/-- SETPROP.VOFF (rule R163). -/
def execSetpropVoff (_deferred : Bool) (value : Word) (s : State) :
    Host.Outcome State Fault Refusal :=
  .next (State.respond { s with voff := voffOperand s.debug value } 1)

/-- Storing the fullscreen request (rule R164). -/
def State.storeFullscreen (s : State) (value : Word) : State :=
  { s with fullscreen := fullscreenOperand value }

/-- SETPROP.FULLSCREEN (rule R164): stores the flag, and re-initialises when it is not deferred and the
block is Initialized, whether or not the value changed (D26). -/
def execSetpropFullscreen (deferred : Bool) (value : Word) (s : State) :
    Host.Outcome State Fault Refusal :=
  if deferred = false ∧ s.mode = .initialized then .next (s.storeFullscreen value).initialise
  else .next ((s.storeFullscreen value).respond 1)

/-- SETPROP.WIDTH: read-only, a successful no-op (rule R165, D23). -/
def execSetpropWidth (_deferred : Bool) (_value : Word) (s : State) :
    Host.Outcome State Fault Refusal := .next (s.respond 1)

/-- SETPROP.HEIGHT: read-only, a successful no-op (rule R166, D23). -/
def execSetpropHeight (_deferred : Bool) (_value : Word) (s : State) :
    Host.Outcome State Fault Refusal := .next (s.respond 1)

/-- SETPROP.DEBUG: read-only, a successful no-op (rule R167, D23). -/
def execSetpropDebug (_deferred : Bool) (_value : Word) (s : State) :
    Host.Outcome State Fault Refusal := .next (s.respond 1)

/-- SETPROP.UNKNOWN: a successful no-op (rule R168). -/
def execSetpropUnknown (_pid : BitVec 4) (_deferred : Bool) (_value : Word) (s : State) :
    Host.Outcome State Fault Refusal := .next (s.respond 1)

/-! ## GETPROP (rules R170 to R177) -/

/-- GETPROP.HOFF (rule R171). -/
def execGetpropHoff (s : State) : Host.Outcome State Fault Refusal := .next (s.respond s.hoff)

/-- GETPROP.VOFF (rule R172). -/
def execGetpropVoff (s : State) : Host.Outcome State Fault Refusal := .next (s.respond s.voff)

/-- GETPROP.FULLSCREEN: the stored flag (rule R173). -/
def execGetpropFullscreen (s : State) : Host.Outcome State Fault Refusal :=
  .next (s.respond (flagWord s.fullscreen))

/-- GETPROP.WIDTH (rule R174). -/
def execGetpropWidth (s : State) : Host.Outcome State Fault Refusal :=
  .next (s.respond (BitVec.ofNat 32 s.width))

/-- GETPROP.HEIGHT (rule R175). -/
def execGetpropHeight (s : State) : Host.Outcome State Fault Refusal :=
  .next (s.respond (BitVec.ofNat 32 s.height))

/-- GETPROP.DEBUG (rule R176). -/
def execGetpropDebug (s : State) : Host.Outcome State Fault Refusal :=
  .next (s.respond (flagWord s.debug))

/-- GETPROP.UNKNOWN answers 0 (rule R177, D24). -/
def execGetpropUnknown (_pid : BitVec 4) (s : State) : Host.Outcome State Fault Refusal :=
  .next (s.respond 0)

/-- TICK: nothing but its response (rule R180). -/
def execTick (s : State) : Host.Outcome State Fault Refusal := .next (s.respond 0)

end Sys2Proof.Machine
end

