-- ==== Sys2Proof/Machine/Dispatch.lean ====
section
/-! DEFINITION. One arm per command: the meaning it calls. -/

namespace Sys2Proof.Machine

def exec (i : Instr) (s : State) : Host.Outcome State Fault Refusal :=
  match i with
  | .tick => Sys2Proof.Machine.execTick s
  | .init => Sys2Proof.Machine.execInit s
  | .renderline sampleLength lineNumber hsyncStart vsyncStart => Sys2Proof.Machine.execRenderline sampleLength lineNumber hsyncStart vsyncStart s
  | .setpropHoff deferred value => Sys2Proof.Machine.execSetpropHoff deferred value s
  | .setpropVoff deferred value => Sys2Proof.Machine.execSetpropVoff deferred value s
  | .setpropFullscreen deferred value => Sys2Proof.Machine.execSetpropFullscreen deferred value s
  | .setpropWidth deferred value => Sys2Proof.Machine.execSetpropWidth deferred value s
  | .setpropHeight deferred value => Sys2Proof.Machine.execSetpropHeight deferred value s
  | .setpropDebug deferred value => Sys2Proof.Machine.execSetpropDebug deferred value s
  | .setpropUnknown pid deferred value => Sys2Proof.Machine.execSetpropUnknown pid deferred value s
  | .getpropHoff => Sys2Proof.Machine.execGetpropHoff s
  | .getpropVoff => Sys2Proof.Machine.execGetpropVoff s
  | .getpropFullscreen => Sys2Proof.Machine.execGetpropFullscreen s
  | .getpropWidth => Sys2Proof.Machine.execGetpropWidth s
  | .getpropHeight => Sys2Proof.Machine.execGetpropHeight s
  | .getpropDebug => Sys2Proof.Machine.execGetpropDebug s
  | .getpropUnknown pid => Sys2Proof.Machine.execGetpropUnknown pid s
  | .extractrow rowIndex => Sys2Proof.Machine.execExtractrow rowIndex s

end Sys2Proof.Machine
end

