-- ==== Sys2Proof/Machine/Step.lean ====
section
/-! DEFINITION. One step: a command from the port, an illegal header, or the host's turn
(spec/30_encoding.md rules R70, R71, R79 and R81). -/

namespace Sys2Proof.Machine

/-- The block consumes the packet at its port and executes it, as one indivisible transition
(spec/00_scope.md rule R17); it consumes and answers an illegal header; and while no complete packet is
on the port the host acts. -/
def step (s : State) : Host.Outcome State Fault Refusal :=
  match fetch s.port with
  | .command i rest => exec i { s with port := rest }
  | .illegal _ rest => .next (State.answerIllegal { s with port := rest })
  | .incomplete => s.hostTurn

/-- `s` with the packet of a row's word presented as the next one at the port (log entry 5). -/
def State.withFetchWord (s : State) (nbits w : Nat) : State :=
  { s with port := tablePacket nbits w ++ s.port }

end Sys2Proof.Machine
end

