-- ==== Sys2Proof/Safety.lean ====
section
/-! DEFINITION. What a safe state and a run's observable result are: the invariants of spec/10_state.md
rule R38 and the observation of spec/70_reset_and_hazards.md rule R224. -/

namespace Sys2Proof

/-- An EXTRACTROW, whether or not it is a no-op. -/
def Instr.extracts : Instr → Bool
  | .tick => false
  | .init => false
  | .renderline _ _ _ _ => false
  | .setpropHoff _ _ => false
  | .setpropVoff _ _ => false
  | .setpropFullscreen _ _ => false
  | .setpropWidth _ _ => false
  | .setpropHeight _ _ => false
  | .setpropDebug _ _ => false
  | .setpropUnknown _ _ _ => false
  | .getpropHoff => false
  | .getpropVoff => false
  | .getpropFullscreen => false
  | .getpropWidth => false
  | .getpropHeight => false
  | .getpropDebug => false
  | .getpropUnknown _ => false
  | .extractrow _ => true

namespace Machine

/-- The reset parameters lie in their legal ranges (spec/00_scope.md rule R9). -/
abbrev Strap.legal (p : Strap) : Prop :=
  p.hoffReset.toNat ≤ hoffMax p.debug ∧ p.voffReset.toNat ≤ voffMax p.debug

/-- `PAL` is what PALBUILD makes of the latched masks (rule R38 (b)). -/
abbrev State.paletteBuilt (s : State) : Prop :=
  ∀ c < palDepth,
    Cells.find s.mem.pal c = some (paletteEntry s.rmask s.gmask s.bmask (BitVec.ofNat 8 c))

/-- The invariants of rule R38 (a) to (c), with the canonical form of the memories. -/
structure State.Inv (s : State) : Prop where
  /-- the reset parameters are legal (rule R9) -/
  strap : Strap.legal s.strap
  /-- `0 <= CR.HOFF <= HOFF_MAX` -/
  hoff : s.hoff.toNat ≤ hoffMax s.debug
  /-- `0 <= CR.VOFF <= VOFF_MAX` -/
  voff : s.voff.toNat ≤ voffMax s.debug
  /-- `CR.MODE = 1` implies `CR.BPP = 4` -/
  bpp : s.mode = .initialized → s.bpp = 4
  /-- `CR.MODE = 1` and a well-formed format imply that `PAL` is built -/
  palette : s.mode = .initialized → wellFormedFormat s.rmask s.gmask s.bmask = true → s.paletteBuilt
  /-- `CR.MODE = 1` implies that `FILLED[r]` is defined for every row -/
  filled : s.mode = .initialized → ∀ r < s.height, (Cells.find s.mem.filled r).isSome = true
  /-- the five memories are in canonical form -/
  memory : Memory.wf s.debug s.mem

/-! ## The observable result of a run (rule R224) -/

/-- The control registers as far as GETPROP can read them (spec/10_state.md rules R24 to R28), each as
its GETPROP answers it. -/
structure Properties where
  hoff : Word
  voff : Word
  fullscreen : Word
  width : Word
  height : Word
  debug : Word
deriving DecidableEq, Repr

/-- The answers of the six GETPROP commands (spec/44_property_store.md rules R171 to R176). -/
def State.properties (s : State) : Properties :=
  { hoff := s.hoff
    voff := s.voff
    fullscreen := flagWord s.fullscreen
    width := BitVec.ofNat 32 s.width
    height := BitVec.ofNat 32 s.height
    debug := flagWord s.debug }

/-- The contents of `DST`. -/
def State.dstContents (s : State) : List Word := (List.range s.width).map s.mem.readDst

/-- The output pin `FS_ACTIVE`: the environment sees it, the host does not, and it is no part of a run's
observable result. -/
def State.fullscreenPin (s : State) : Bool := s.fsActive

/-- The next step executes an EXTRACTROW. -/
def State.extracts (s : State) : Bool :=
  match fetch s.port with
  | .command i _ => i.extracts
  | .illegal _ _ => false
  | .incomplete => false

/-- The state in which a run of at most `n` steps ends. -/
def lastState : Nat → State → State
  | 0, s => s
  | n + 1, s =>
    match step s with
    | .next t => lastState n t
    | .fault _ => s
    | .refused _ => s

/-- The contents of `DST` after each EXTRACTROW of a run of at most `n` steps, the first one first. -/
def extractedRows : Nat → State → List (List Word)
  | 0, _ => []
  | n + 1, s =>
    match step s with
    | .next t => if s.extracts then t.dstContents :: extractedRows n t else extractedRows n t
    | .fault _ => []
    | .refused _ => []

/-- The responses given since `s`, the first one first. -/
def responsesSince (s t : State) : List Response :=
  (t.responses.take (t.responses.length - s.responses.length)).reverse

/-- The observable result of a run (rule R224). -/
structure Observation where
  /-- the sequence of responses -/
  responses : List Response
  /-- the final `FRAME_EVENTS` -/
  frameEvents : Nat
  /-- the contents `DST` had after each EXTRACTROW -/
  rows : List (List Word)
  /-- the final control registers as far as GETPROP can read them -/
  properties : Properties
deriving DecidableEq, Repr

/-- The observable result of a run of at most `n` steps from `s`. -/
def observeRun (n : Nat) (s : State) : Observation :=
  { responses := responsesSince s (lastState n s)
    frameEvents := (lastState n s).frameEvents
    rows := extractedRows n s
    properties := (lastState n s).properties }

end Machine

end Sys2Proof
end

