-- ==== Sys2Proof/Certificates/Slice0/Obligations.lean ====
section
/-! DEFINITION. The statements about the VRR. Each docstring names the passage of spec/ it formalises;
where a statement rests on a choice the spec marks as its own, the docstring names the row D<n> of
spec/92_eei_decisions.md, and where it rests on a choice of this model, the log entry. A number of a
raster row or column, of a sample or of a palette entry is a plain natural number; the spaces are read
through `Memory.readSmp`, `readPal`, `readRaster`, `readFilled` and `readDst`. -/

open Sys2Proof Sys2Proof.Machine

/-! ## What the statements are written with -/

/-- The rows of the header table of spec/30_encoding.md rule R78: mnemonic, match, mask. -/
def Claims.headerRows : List (String × Word × Word) :=
  [("TICK", 0x00000000, 0xFFFFFFFF), ("INIT", 0x00000001, 0xFFFFFFFF),
   ("RENDERLINE", 0x00000002, 0xFFFFFFFF), ("SETPROP.HOFF", 0x00000003, 0xFFFFFEFF),
   ("SETPROP.VOFF", 0x00000013, 0xFFFFFEFF), ("SETPROP.FULLSCREEN", 0x00000023, 0xFFFFFEFF),
   ("SETPROP.WIDTH", 0x00000033, 0xFFFFFEFF), ("SETPROP.HEIGHT", 0x00000043, 0xFFFFFEFF),
   ("SETPROP.DEBUG", 0x00000053, 0xFFFFFEFF), ("SETPROP.UNKNOWN", 0x00000063, 0xFFFFFEEF)]
  ++ [("SETPROP.UNKNOWN", 0x00000083, 0xFFFFFE8F), ("GETPROP.HOFF", 0x00000004, 0xFFFFFFFF),
   ("GETPROP.VOFF", 0x00000014, 0xFFFFFFFF), ("GETPROP.FULLSCREEN", 0x00000024, 0xFFFFFFFF),
   ("GETPROP.WIDTH", 0x00000034, 0xFFFFFFFF), ("GETPROP.HEIGHT", 0x00000044, 0xFFFFFFFF),
   ("GETPROP.DEBUG", 0x00000054, 0xFFFFFFFF), ("GETPROP.UNKNOWN", 0x00000064, 0xFFFFFFEF),
   ("GETPROP.UNKNOWN", 0x00000084, 0xFFFFFF8F), ("EXTRACTROW", 0x00000005, 0xFFFFFFFF)]

/-- A header selects a row when `(h & mask) = match` (rule R78). -/
abbrev Claims.selects (h : Word) (row : String × Word × Word) : Prop := h &&& row.2.2 = row.2.1

/-- The illegal headers of rule R79, spelled out on the bits of rule R72. -/
abbrev Claims.illegalHeader (h : Word) : Prop :=
  6 ≤ (h.extractLsb' 0 4).toNat
    ∨ h.extractLsb' 9 23 ≠ 0
    ∨ (h.extractLsb' 4 4 ≠ 0 ∧ h.extractLsb' 0 4 ≠ 3 ∧ h.extractLsb' 0 4 ≠ 4)
    ∨ (h.getLsbD 8 = true ∧ h.extractLsb' 0 4 ≠ 3)

/-- How many words a legal packet has, by `OP` (rule R81). -/
abbrev Claims.wordsOf (h : Word) : Nat :=
  match (h.extractLsb' 0 4).toNat with
  | 2 => 5
  | 3 => 2
  | 5 => 2
  | _ => 1

/-- `s` with one more legal response `v`. -/
abbrev Claims.answered (s : State) (v : Word) : State :=
  { s with responses := { rsp := v, ill := false } :: s.responses }

/-- A command that runs INITIALISE in this state (rule R123): INIT, or a SETPROP.FULLSCREEN with
`DEF = 0` in the Initialized state. -/
abbrev Claims.initialises (i : Instr) (s : State) : Prop :=
  i = .init ∨ ∃ v, i = .setpropFullscreen false v ∧ s.mode = .initialized

/-- The row a line number is placed at and its pair, if they are in the raster (rules R128 and R129). -/
abbrev Claims.row (s : State) (line : Word) : Word := line - s.voff

/-- Row `r` is written by step 2 of a RENDERLINE of this line. -/
abbrev Claims.written (s : State) (line : Word) (r : Nat) : Prop :=
  (Claims.row s line).toNat < s.height
    ∧ (r = (Claims.row s line).toNat ∨ r = (Claims.row s line ^^^ 1).toNat)

/-- Several RENDERLINE commands one after the other; each element is
`(sampleLength, lineNumber, hsyncStart, vsyncStart)`. -/
def Claims.renderLines :
    List (Word × Word × Word × Word) → State → Host.Outcome State Fault Refusal
  | [], s => .next s
  | l :: ls, s =>
    match exec (.renderline l.1 l.2.1 l.2.2.1 l.2.2.2) s with
    | .next t => Claims.renderLines ls t
    | .fault r => .fault r
    | .refused r => .refused r

/-- The nibble-reduced tap of rule R102, spelled out. -/
abbrev Claims.nibbles (look : Word → Word) (k : Word) : Word := (look k &&& 0xF0F0F0F0) >>> 4

/-- The weighted sum of one colour component of the samples from index `k` on, `f` expanding a colour
code to the component (rules R91, R103 and R104). -/
def Claims.componentSum (f : Byte → Nat) (m : Memory) : List Word → Word → Nat
  | [], _ => 0
  | w :: ws, k =>
    w.toNat * (f (m.readSmp (k &&& 0x7FF).toNat) / 16) + Claims.componentSum f m ws (k + 1)

/-- The weighted sum for output pixel `i`. -/
abbrev Claims.pixelSum (f : Byte → Nat) (s : State) (i : Nat) : Nat :=
  Claims.componentSum f s.mem (weights (i % 3)) (windowStart s.hoff i)

/-- `0x00RRGGBB` from three numbers below 256. -/
abbrev Claims.rgb (r g b : Nat) : Word := BitVec.ofNat 32 (65536 * r + 256 * g + b)

/-- The commands of a list executed one after the other: each with the state after it. -/
def Claims.trace : List Instr → State → List (Instr × State)
  | [], _ => []
  | i :: is, s =>
    match exec i s with
    | .next t => (i, t) :: Claims.trace is t
    | .fault _ => []
    | .refused _ => []

/-- The state after the last of them. -/
abbrev Claims.finalState (is : List Instr) (s : State) : State :=
  ((Claims.trace is s).getLast?.map Prod.snd).getD s

/-! ## Encoding and the command port -/

/-- Decoding an encoded well-formed command gives it back, with every operand, and leaves the words
after its packet (rules R72 to R75, R83; the encoding is the spec's own, D2 to D4). -/
def Obligations.DecodeInvertsEncode : Prop :=
  ∀ (i : Instr) (rest : List Word), i.wellFormed = true →
    decode (encode i ++ rest) = .ok (i, rest)

/-- The other direction: a decoded command is well-formed and its packet is its encoding, so each packet
has one meaning (D2 to D4). -/
def Obligations.EncodeInvertsDecode : Prop :=
  ∀ (ws : List Word) (i : Instr) (rest : List Word), decode ws = .ok (i, rest) →
    i.wellFormed = true ∧ ws = encode i ++ rest

/-- The header table of rule R78: a header that selects a row decodes to that row's command, a header
that selects none is illegal, and no header selects two rows (D2 to D4). -/
def Obligations.HeaderTableSelectsCommand : Prop :=
  (∀ (h a b c d : Word), ∀ row ∈ Claims.headerRows, Claims.selects h row →
      ∃ i rest, decode [h, a, b, c, d] = .ok (i, rest) ∧ i.mnemonic = row.1)
    ∧ (∀ h : Word, (∀ row ∈ Claims.headerRows, ¬ Claims.selects h row) →
        ∀ ws : List Word, ∃ why, fetch (h :: ws) = .illegal why ws)
    ∧ Claims.headerRows.Pairwise fun p q => ∀ h : Word, ¬ (Claims.selects h p ∧ Claims.selects h q)

/-- The worked encodings of rule R84, and INIT, TICK and a deferred unknown property, decode to the
commands they stand for (D2 to D4). -/
def Obligations.WorkedEncodingsDecode : Prop :=
  decode [0x00000003, 0xFFFE7960] = .ok (.setpropHoff false (BitVec.ofInt 32 (-100000)), [])
    ∧ decode [0x00000123, 0x00000001] = .ok (.setpropFullscreen true 1, [])
    ∧ decode [0x00000044] = .ok (.getpropHeight, [])
    ∧ decode [0x00000002, 0x0000071C, 0x00000015, 0, 0] = .ok (.renderline 1820 21 0 0, [])
    ∧ decode [0x00000005, 0x000001BF] = .ok (.extractrow 447, [])
    ∧ decode [0x00000093, 0x00000005] = .ok (.setpropUnknown 9 false 5, [])
    ∧ decode [0x00000193, 0x00000007] = .ok (.setpropUnknown 9 true 7, [])
    ∧ decode [0x00000001] = .ok (.init, [])
    ∧ decode [0x00000000] = .ok (.tick, [])

/-- Packet lengths 1, 2 and 5 by `OP` (rules R71 and R81, D2): with a legal header the decoder gives a
command exactly when the whole packet is there, and takes exactly its words. -/
def Obligations.PacketLengthFollowsFromOp : Prop :=
  ∀ (h : Word) (ws : List Word), ¬ Claims.illegalHeader h →
    (Claims.wordsOf h ≤ ws.length + 1 →
      ∃ i, decode (h :: ws) = .ok (i, (h :: ws).drop (Claims.wordsOf h)))
    ∧ (ws.length + 1 < Claims.wordsOf h → decode (h :: ws) = .error .truncated)

/-- A step with a complete legal packet at the port consumes it and is the command's meaning (rules R17,
R70 and R71; the port as a list of words is log entry 5). -/
def Obligations.StepRunsDecodedCommand : Prop :=
  ∀ (s : State) (i : Instr) (rest : List Word), decode s.port = .ok (i, rest) →
    step s = exec i { s with port := rest }

/-- An illegal header (rule R79, D9; failure class F4 of rule R194): one word is consumed, nothing else
of the state changes, and the answer is `RSP = 0`, `ILL = 1`. -/
def Obligations.IllegalHeaderIsAnswered : Prop :=
  ∀ (s : State) (h : Word) (ws : List Word), s.port = h :: ws → Claims.illegalHeader h →
    step s = .next { s with port := ws, responses := { rsp := 0, ill := true } :: s.responses }

/-- A truncated packet is never executed (rule R81, D2): the block waits. That the step is then the next
action of the host's script is the model's choice of log entry 5, and that the machine stops with
`truncatedPacket` when the script is at its end is the model's choice of log entry 10. -/
def Obligations.TruncatedPacketWaits : Prop :=
  ∀ (s : State) (h : Word) (ws : List Word), s.port = h :: ws → ¬ Claims.illegalHeader h →
    ws.length + 1 < Claims.wordsOf h →
    (∀ a later, s.host = a :: later → step s = .next (State.applyHost a { s with host := later }))
    ∧ (s.host = [] → step s = .fault .truncatedPacket)

/-! ## The Property Store and TICK -/

/-- SETPROP.HOFF (rule R162; the bound 606 or 200 is D13): the value clamped as a signed number, `DEF`
without effect, answer 1, nothing else changed. -/
def Obligations.SetpropHoffClamps : Prop :=
  ∀ (s : State) (d : Bool) (v : Word), ∃ x : Word,
    exec (.setpropHoff d v) s = .next (Claims.answered { s with hoff := x } 1)
    ∧ (x.toNat : Int) = max 0 (min v.toInt (if s.strap.debug then 200 else 606))

/-- SETPROP.VOFF (rule R163; the bound 0 of the debug geometry is D14). -/
def Obligations.SetpropVoffClamps : Prop :=
  ∀ (s : State) (d : Bool) (v : Word), ∃ x : Word,
    exec (.setpropVoff d v) s = .next (Claims.answered { s with voff := x } 1)
    ∧ (x.toNat : Int) = max 0 (min v.toInt (if s.strap.debug then 0 else 77))

/-- SETPROP.FULLSCREEN that does not re-initialise, because it is deferred or the block is Uninitialized
(rule R164; the stored flag is D25): only the flag is stored, answer 1. -/
def Obligations.SetpropFullscreenStores : Prop :=
  ∀ (s : State) (d : Bool) (v : Word), d = true ∨ s.mode = .uninitialized →
    exec (.setpropFullscreen d v) s
      = .next (Claims.answered { s with fullscreen := decide (v ≠ 0) } 1)

/-- SETPROP.FULLSCREEN that re-initialises (rule R164, D26): with the new flag stored it does and answers
what INIT does and answers, whether or not the flag changed. -/
def Obligations.SetpropFullscreenReinitialises : Prop :=
  ∀ (s : State) (v : Word), s.mode = .initialized →
    ∃ t, exec (.setpropFullscreen false v) s = .next t
      ∧ exec .init { s with fullscreen := decide (v ≠ 0) } = .next t

/-- SETPROP of a read-only property is a successful no-op (rules R165 to R167, D23). -/
def Obligations.SetpropReadOnlyIsNoop : Prop :=
  ∀ (s : State) (d : Bool) (v : Word),
    exec (.setpropWidth d v) s = .next (Claims.answered s 1)
    ∧ exec (.setpropHeight d v) s = .next (Claims.answered s 1)
    ∧ exec (.setpropDebug d v) s = .next (Claims.answered s 1)

/-- SETPROP of an unknown property is a successful no-op, `DEF` and the value ignored (rule R168). -/
def Obligations.SetpropUnknownIsNoop : Prop :=
  ∀ (s : State) (pid : BitVec 4) (d : Bool) (v : Word),
    exec (.setpropUnknown pid d v) s = .next (Claims.answered s 1)

/-- GETPROP of the writable properties answers the stored value and changes nothing, with the worked
examples of the three rules (rules R171 to R173). -/
def Obligations.GetpropAnswersStoredValue : Prop :=
  (∀ s : State,
    exec .getpropHoff s = .next (Claims.answered s s.hoff)
    ∧ exec .getpropVoff s = .next (Claims.answered s s.voff)
    ∧ exec .getpropFullscreen s = .next (Claims.answered s (if s.fullscreen then 1 else 0)))
  ∧ exec .getpropHoff State.reset = .next (Claims.answered State.reset 0)
  ∧ (∀ (s : State) (d : Bool), s.strap.debug = false →
      ∃ t, exec (.setpropVoff d 1000) s = .next t
        ∧ exec .getpropVoff t = .next (Claims.answered t 77))
  ∧ (∀ s : State, ∃ t, exec (.setpropFullscreen true (-7)) s = .next t
        ∧ exec .getpropFullscreen t = .next (Claims.answered t 1))

/-- GETPROP of the geometry, in both operating states (rules R174 to R176). -/
def Obligations.GetpropAnswersGeometry : Prop :=
  ∀ s : State,
    exec .getpropWidth s = .next (Claims.answered s (if s.strap.debug then 0x318 else 0x26A))
    ∧ exec .getpropHeight s = .next (Claims.answered s (if s.strap.debug then 0x212 else 0x1C0))
    ∧ exec .getpropDebug s = .next (Claims.answered s (if s.strap.debug then 1 else 0))

/-- GETPROP of an unknown property answers 0: the spec's own choice D24 (rule R177). -/
def Obligations.GetpropUnknownAnswersZero : Prop :=
  ∀ (s : State) (pid : BitVec 4), exec (.getpropUnknown pid) s = .next (Claims.answered s 0)

/-- TICK changes no state in either operating state and emits no event (rule R180). -/
def Obligations.TickChangesNothing : Prop :=
  ∀ s : State, exec .tick s = .next (Claims.answered s 0)

/-! ## Initialisation and the operating states -/

/-- A successful INIT (rules R40, R121 and R123; D16, D20 and D27 for `PREVLINE`, the query and
`FS_ACTIVE`): the whole next state but the block's memories, the palette of a well-formed format, every
flag clear, the host's memories untouched. -/
def Obligations.InitSucceeds : Prop :=
  ∀ s : State, s.surface.ok = true → s.surface.bpp = 4 →
    ∃ t, exec .init s = .next t
      ∧ t = { s with
          mode := .initialized
          rmask := s.surface.rmask
          gmask := s.surface.gmask
          bmask := s.surface.bmask
          bpp := 4
          fsActive := s.fullscreen
          prevline := 0
          mem := t.mem
          queries := { width := BitVec.ofNat 32 s.width, height := BitVec.ofNat 32 s.height,
                       fullscreen := s.fullscreen } :: s.queries
          responses := { rsp := 1, ill := false } :: s.responses }
      ∧ (wellFormedFormat s.surface.rmask s.surface.gmask s.surface.bmask = true →
          ∀ c : Byte, t.mem.readPal c.toNat
            = paletteEntry s.surface.rmask s.surface.gmask s.surface.bmask c)
      ∧ (∀ r < s.height, t.mem.readFilled r = false)
      ∧ (∀ k, t.mem.readSmp k = s.mem.readSmp k) ∧ (∀ i, t.mem.readDst i = s.mem.readDst i)

/-- A failed INIT (rules R41 and R191; D17 for what it keeps): Uninitialized, answer 0, the latched format
and the block's memories free, everything else kept. -/
def Obligations.InitFails : Prop :=
  ∀ s : State, s.surface.ok = false ∨ s.surface.bpp ≠ 4 →
    ∃ t, exec .init s = .next t
      ∧ t = { s with
          mode := .uninitialized
          rmask := t.rmask
          gmask := t.gmask
          bmask := t.bmask
          bpp := t.bpp
          mem := t.mem
          queries := { width := BitVec.ofNat 32 s.width, height := BitVec.ofNat 32 s.height,
                       fullscreen := s.fullscreen } :: s.queries
          responses := { rsp := 0, ill := false } :: s.responses }
      ∧ (∀ k, t.mem.readSmp k = s.mem.readSmp k) ∧ (∀ i, t.mem.readDst i = s.mem.readDst i)

/-- `CR.MODE` changes only by an initialisation, to Initialized exactly when the answer is usable; the
Initialized state is entered from the Uninitialized one by INIT alone (rules R22, R120 and R201). -/
def Obligations.ModeChangesOnlyByInitialisation : Prop :=
  ∀ (i : Instr) (s t : State), exec i s = .next t →
    (t.mode ≠ s.mode → Claims.initialises i s)
    ∧ (Claims.initialises i s →
        (t.mode = .initialized ↔ s.surface.ok = true ∧ s.surface.bpp = 4))
    ∧ (s.mode = .uninitialized → t.mode = .initialized → i = .init)

/-- The latched format, `FS_ACTIVE` and the palette change only by an initialisation (rules R29, R31, R64
and R95; D27 for `FS_ACTIVE`). -/
def Obligations.FormatFollowsInitialisation : Prop :=
  ∀ (i : Instr) (s t : State), exec i s = .next t → ¬ Claims.initialises i s →
    t.rmask = s.rmask ∧ t.gmask = s.gmask ∧ t.bmask = s.bmask ∧ t.bpp = s.bpp
    ∧ t.fsActive = s.fsActive ∧ t.queries = s.queries
    ∧ ∀ c, t.mem.readPal c = s.mem.readPal c

/-- Each property is written by its own SETPROP alone, and so persists across initialisations; the strap
never changes (rules R25 to R28 and R121; D31 for the strap). -/
def Obligations.PropertiesPersist : Prop :=
  ∀ (i : Instr) (s t : State), exec i s = .next t →
    (t.hoff ≠ s.hoff → ∃ d v, i = .setpropHoff d v)
    ∧ (t.voff ≠ s.voff → ∃ d v, i = .setpropVoff d v)
    ∧ (t.fullscreen ≠ s.fullscreen → ∃ d v, i = .setpropFullscreen d v)
    ∧ t.strap = s.strap

/-- Which command writes which space (rules R50, R63 and R66): `SMP` none, `DST` EXTRACTROW alone,
`RASTER` and `FILLED` an initialisation or an Initialized RENDERLINE alone. -/
def Obligations.SpacesHaveOneWriter : Prop :=
  ∀ (i : Instr) (s t : State), exec i s = .next t →
    (∀ k, t.mem.readSmp k = s.mem.readSmp k)
    ∧ ((∀ r, i ≠ .extractrow r) → ∀ k, t.mem.readDst k = s.mem.readDst k)
    ∧ (¬ Claims.initialises i s → (∀ a l h v, i ≠ .renderline a l h v) →
        (∀ r c, t.mem.readRaster r c = s.mem.readRaster r c)
        ∧ ∀ r, t.mem.readFilled r = s.mem.readFilled r)

/-- The frame-ready event comes from an Initialized RENDERLINE whose line number is below the previous
one, one event at a time, and the count never decreases (rules R38 (e) and R196; D21 for the count). -/
def Obligations.EventsComeFromFrameBoundaries : Prop :=
  ∀ (i : Instr) (s t : State), exec i s = .next t →
    (t.frameEvents = s.frameEvents ∨ t.frameEvents = s.frameEvents + 1)
    ∧ (t.frameEvents = s.frameEvents + 1 ↔
        s.mode = .initialized ∧ ∃ a l h v, i = .renderline a l h v ∧ l.toNat < s.prevline.toNat)

/-- Every command completes in every state with exactly one legal response, and none touches the port,
the host's script, the environment's answer or the strap (rules R17, R80 and R190; D8 for the
response). -/
def Obligations.EveryCommandAnswersOnce : Prop :=
  ∀ (i : Instr) (s : State), ∃ t r, exec i s = .next t
    ∧ t.responses = { rsp := r, ill := false } :: s.responses
    ∧ t.port = s.port ∧ t.host = s.host ∧ t.surface = s.surface ∧ t.strap = s.strap

/-! ## RENDERLINE -/

/-- RENDERLINE in the Uninitialized state changes nothing but its response (rules R125 and R201). -/
def Obligations.RenderlineUninitializedIsNoop : Prop :=
  ∀ (s : State) (a l h v : Word), s.mode = .uninitialized →
    exec (.renderline a l h v) s = .next (Claims.answered s 0)

/-- `sampleLength`, `hsyncStart` and `vsyncStart` have no effect: the spec's own choice D22 (rule
R125). -/
def Obligations.RenderlineIgnoresThreeOperands : Prop :=
  ∀ (s : State) (l a h v a' h' v' : Word),
    ∃ t, exec (.renderline a l h v) s = .next t ∧ exec (.renderline a' l h' v') s = .next t

/-- Step 3 (rule R130): every Initialized RENDERLINE records its line number, whatever step 2 did. -/
def Obligations.RenderlineRecordsLineNumber : Prop :=
  ∀ (s : State) (a l h v : Word), s.mode = .initialized →
    ∃ t, exec (.renderline a l h v) s = .next t ∧ t.prevline = l

/-- What an Initialized RENDERLINE does to everything but the raster and its flags (rules R124, R126, R130
and R196; D21 for the event count): the line number, the event, the answer 0, and nothing else. -/
def Obligations.RenderlineFrame : Prop :=
  ∀ (s : State) (a l h v : Word), s.mode = .initialized →
    ∃ t, exec (.renderline a l h v) s = .next t
      ∧ t = { s with
          prevline := l
          frameEvents := if l.toNat < s.prevline.toNat then s.frameEvents + 1 else s.frameEvents
          mem := t.mem
          responses := { rsp := 0, ill := false } :: s.responses }
      ∧ (∀ k, t.mem.readSmp k = s.mem.readSmp k) ∧ (∀ c, t.mem.readPal c = s.mem.readPal c)
      ∧ (∀ i, t.mem.readDst i = s.mem.readDst i)

/-- Every pixel after an Initialized RENDERLINE (rules R127 to R129; D11, D12 and D34 for the row roles,
the resampler's operands and the blank value): the paired row holds the full output, row `voff` the
dimmed one, a row whose flag was clear at a boundary is blank, every other row is as before. -/
def Obligations.RenderlineWritesRowPair : Prop :=
  ∀ (s : State) (a l h v : Word), s.mode = .initialized →
    ∃ t, exec (.renderline a l h v) s = .next t
      ∧ ∀ r c, c < s.width → t.mem.readRaster r c
          = if (Claims.row s l).toNat < s.height ∧ r = (Claims.row s l ^^^ 1).toNat then
              fullPixel s.mem.lookup s.hoff c
            else if (Claims.row s l).toNat < s.height ∧ r = (Claims.row s l).toNat then
              dim (fullPixel s.mem.lookup s.hoff c)
            else if l.toNat < s.prevline.toNat ∧ r < s.height ∧ s.mem.readFilled r = false then 0
            else s.mem.readRaster r c

/-- Every flag after an Initialized RENDERLINE (rules R127 and R129): the two rows of the pair are set,
every other row is cleared at a boundary and as before otherwise. -/
def Obligations.RenderlineSetsFlags : Prop :=
  ∀ (s : State) (a l h v : Word), s.mode = .initialized →
    ∃ t, exec (.renderline a l h v) s = .next t
      ∧ ∀ r < s.height, (t.mem.readFilled r = true ↔
          Claims.written s l r ∨ (s.prevline.toNat ≤ l.toNat ∧ s.mem.readFilled r = true))

/-- The paired row is the row below an even row and the row above an odd one, and both are in the raster
when one is (rule R129; `HEIGHT` is even). -/
def Obligations.PairedRowStaysInRaster : Prop :=
  ∀ (s : State) (x : Word), x.toNat < s.height →
    (pairedRow x).toNat < s.height
    ∧ (pairedRow x).toNat = if x.toNat % 2 = 0 then x.toNat + 1 else x.toNat - 1

/-- The vertical range test as a test on integers (rule R128): the wrapped difference is a raster row
exactly when `VOFF <= lineNumber < VOFF + HEIGHT`, for every legal `VOFF`. -/
def Obligations.RowRangeIsOneSided : Prop :=
  ∀ (s : State) (l : Word), s.voff.toNat ≤ voffMax s.debug →
    (inRaster s (rowOperand s l) = true ↔
      s.voff.toNat ≤ l.toNat ∧ l.toNat < s.voff.toNat + s.height)

/-- The testable property of the Frame Assembler (rule R134): after lines with non-decreasing numbers no
event; one further line with a smaller number gives exactly one, and every row whose flag was clear
before it, other than the rows it writes itself, reads back through EXTRACTROW as zeros. -/
def Obligations.MonotoneLinesThenSmallerFlipOnce : Prop :=
  ∀ (s : State) (ls : List (Word × Word × Word × Word)) (a l h v : Word),
    s.mode = .initialized → s.bpp = 4 →
    (s.prevline :: ls.map fun x => x.2.1).Pairwise (fun p q => p.toNat ≤ q.toNat) →
    l.toNat < ((s.prevline :: ls.map fun x => x.2.1).getLast (by simp)).toNat →
    ∃ t u, Claims.renderLines ls s = .next t ∧ t.frameEvents = s.frameEvents
      ∧ exec (.renderline a l h v) t = .next u ∧ u.frameEvents = s.frameEvents + 1
      ∧ ∀ r : Word, r.toNat < s.height → t.mem.readFilled r.toNat = false →
          ¬ Claims.written t l r.toNat →
          ∃ w, exec (.extractrow r) u = .next w ∧ ∀ i < s.width, w.mem.readDst i = 0

/-! ## The Palette Builder and the lookup -/

/-- The round trip of the palette (rules R91, R92 and R96; the truncating division is D18): each channel
read back through its mask is the linear expansion of the colour code's field. -/
def Obligations.PaletteRoundTrip : Prop :=
  ∀ (r g b : Word) (c : Byte), wellFormedFormat r g b = true →
    ((paletteEntry r g b c &&& r) >>> ctz r).toNat = (c.extractLsb' 0 3).toNat * 255 / 7
    ∧ ((paletteEntry r g b c &&& g) >>> ctz g).toNat = (c.extractLsb' 3 3).toNat * 255 / 7
    ∧ ((paletteEntry r g b c &&& b) >>> ctz b).toNat = (c.extractLsb' 6 2).toNat * 255 / 3

/-- The padding lane of every palette entry is zero: rule R94, the spec's own choice D19. -/
def Obligations.PalettePaddingIsZero : Prop :=
  ∀ (r g b : Word) (c : Byte), wellFormedFormat r g b = true →
    paletteEntry r g b c &&& ~~~(r ||| g ||| b) = 0

/-- PALLOOKUP (rule R97): one read of `SMP` at `k & 0x7FF`, one read of `PAL` at the sample, both in
range, with the worked example of the rule. -/
def Obligations.PaletteLookupWraps : Prop :=
  (∀ (m : Memory) (k : Word),
    m.lookup k = m.readPal (m.readSmp (k.toNat % 2048)).toNat
    ∧ (k &&& 0x7FF).toNat = k.toNat % 2048 ∧ k.toNat % 2048 < 2048
    ∧ (m.readSmp (k.toNat % 2048)).toNat < 256)
  ∧ ∀ m : Memory, m.readSmp 2047 = 0x5A → m.readPal 0x5A = 0x00486D55 →
      m.lookup (-1) = 0x00486D55 ∧ m.lookup 0xFFFFFFFF = 0x00486D55

/-! ## The resampler -/

/-- `dest0` (rules R102 and R103; the window starts are the spec's own choice D10). -/
def Obligations.FullPixelIsFiveTapSum : Prop :=
  ∀ (look : Word → Word) (off : Word) (t : Nat),
    let N := Claims.nibbles look
    let sp := off + BitVec.ofNat 32 (7 * t)
    fullPixel look off (3 * t)
        = 4 * N (sp - 1) + 4 * N sp + 4 * N (sp + 1) + 4 * N (sp + 2) + 1 * N (sp + 3)
    ∧ fullPixel look off (3 * t + 1)
        = 2 * N (sp + 1) + 4 * N (sp + 2) + 5 * N (sp + 3) + 4 * N (sp + 4) + 2 * N (sp + 5)
    ∧ fullPixel look off (3 * t + 2)
        = 1 * N (sp + 3) + 4 * N (sp + 4) + 4 * N (sp + 5) + 4 * N (sp + 6) + 4 * N (sp + 7)

/-- The dimmed row (rule R107). -/
def Obligations.DimmedRowIsThreeQuarters : Prop :=
  ∀ (look : Word → Word) (off : Word) (len : Nat),
    (resample look off len).2
      = (resample look off len).1.map fun x : Word => ((x &&& 0xFCFCFCFC) >>> 2) * 3

/-- No lane carries in `dest0` (rules R104 and R105): each lane is the weighted sum of the upper nibbles of
that lane, and so at most 255. -/
def Obligations.FullPixelLanesAreIndependent : Prop :=
  ∀ (look : Word → Word) (off : Word) (i : Nat), ∀ j < 4,
    let w := fun q => ((weights (i % 3)).getD q 0).toNat
    let p := fun q => (lane j (look (windowStart off i + BitVec.ofNat 32 q))).toNat / 16
    (lane j (fullPixel look off i)).toNat
      = w 0 * p 0 + w 1 * p 1 + w 2 * p 2 + w 3 * p 3 + w 4 * p 4

/-- No lane carries in `dest1` (rule R108). -/
def Obligations.DimmedLanesAreIndependent : Prop :=
  ∀ (x : Word), ∀ j < 4, (lane j (dim x)).toNat = (lane j x).toNat / 4 * 3 ∧ (lane j (dim x)).toNat ≤ 189

/-- A solid line (rule R106): with every sample the same pixel, each lane of the full output is 17 times
its upper nibble, at every offset and every position; there is no division. -/
def Obligations.SolidLineKeepsUpperNibble : Prop :=
  ∀ (p off : Word) (i : Nat), ∀ j < 4,
    (lane j (fullPixel (fun _ => p) off i)).toNat = 17 * ((lane j p).toNat / 16)

/-- The all-white property (rule R112): every sample `0xFF` in a well-formed format gives the union of the
masks as the full output and `0xBD` in its lanes as the dimmed one. -/
def Obligations.AllWhiteIsFullIntensity : Prop :=
  ∀ (r g b off : Word) (i : Nat), wellFormedFormat r g b = true →
    fullPixel (fun _ => paletteEntry r g b 0xFF) off i = r ||| g ||| b
    ∧ dim (fullPixel (fun _ => paletteEntry r g b 0xFF) off i) = (r ||| g ||| b) &&& 0xBDBDBDBD

/-- The samples a call reads (rules R109 and R110; D10 for the window starts): both outputs have
`(len div 3) * 3` pixels and depend on the cyclic indices `off - 1` to `off + 7 * (len div 3)` and on
nothing else of `SMP`. -/
def Obligations.ResamplerReadsItsWindowOnly : Prop :=
  ∀ (m m' : Memory) (off : Word) (len : Nat),
    (∀ c, m.readPal c = m'.readPal c) →
    (∀ k < 7 * (len / 3) + 2, m.readSmp ((off - 1 + BitVec.ofNat 32 k).toNat % 2048)
      = m'.readSmp ((off - 1 + BitVec.ofNat 32 k).toNat % 2048)) →
    resample m.lookup off len = resample m'.lookup off len
    ∧ (resample m.lookup off len).1.length = len / 3 * 3
    ∧ (resample m.lookup off len).2.length = len / 3 * 3

/-- Only `off` modulo 2048 matters (rules R101 and R102). -/
def Obligations.OffsetWrapsModulo2048 : Prop :=
  ∀ (m : Memory) (off off' : Word) (i : Nat), off.toNat % 2048 = off'.toNat % 2048 →
    fullPixel m.lookup off i = fullPixel m.lookup off' i

/-! ## The Channel Remapper -/

/-- The bit-scan (rules R12 and R144): the index of the lowest set bit. -/
def Obligations.CtzIsLowestSetBit : Prop :=
  ∀ m : Word, m ≠ 0 → m.getLsbD (ctz m) = true ∧ ∀ i < ctz m, m.getLsbD i = false

/-- `SHIFTOF` (rules R143 and R179 (d)): in `0 .. 31` for every mask, a zero mask included, whose shift
is otherwise free (log entry 9); for a non-zero mask the loop ends at `max(ctz(m), msb(m) - 7)`. -/
def Obligations.ShiftOfClosedForm : Prop :=
  (∀ m : Word, shiftOf m ≤ 31)
  ∧ ∀ m : Word, m ≠ 0 → shiftOf m = max (ctz m) (m.toNat.log2 - 7)

/-- EXTRACTROW with its three tests passed (rules R141, R145 and R66; D28 for the extent): every `DST`
entry of the row by the formula of rule R145, with bits [31:24] zero, and nothing else but the
response. -/
def Obligations.ExtractrowFillsDst : Prop :=
  ∀ (s : State) (r : Word), s.mode = .initialized → s.bpp = 4 → r.toNat < s.height →
    ∃ t, exec (.extractrow r) s = .next t
      ∧ t = { s with mem := t.mem, responses := { rsp := 0, ill := false } :: s.responses }
      ∧ (∀ i < s.width,
          t.mem.readDst i
            = (((s.mem.readRaster r.toNat i >>> shiftOf s.rmask) &&& 0xFF) <<< 16)
              ||| (((s.mem.readRaster r.toNat i >>> shiftOf s.gmask) &&& 0xFF) <<< 8)
              ||| ((s.mem.readRaster r.toNat i >>> shiftOf s.bmask) &&& 0xFF)
          ∧ (t.mem.readDst i).toNat < 2 ^ 24)
      ∧ (∀ i, s.width ≤ i → t.mem.readDst i = s.mem.readDst i)
      ∧ (∀ k, t.mem.readSmp k = s.mem.readSmp k) ∧ (∀ c, t.mem.readPal c = s.mem.readPal c)
      ∧ (∀ q c, t.mem.readRaster q c = s.mem.readRaster q c)
      ∧ (∀ q, t.mem.readFilled q = s.mem.readFilled q)

/-- EXTRACTROW with a failing test is a silent no-op (rules R142 and R193; D38 for the test of `BPP`). -/
def Obligations.ExtractrowSilentNoop : Prop :=
  ∀ (s : State) (r : Word), s.mode = .uninitialized ∨ s.bpp ≠ 4 ∨ s.height ≤ r.toNat →
    exec (.extractrow r) s = .next (Claims.answered s 0)

/-- The two fast paths agree with the general formula (rule R146). -/
def Obligations.FastPathsAgree : Prop :=
  ∀ src : Word,
    extractPixel (shiftOf 0x00FF0000) (shiftOf 0x0000FF00) (shiftOf 0x000000FF) src = src &&& 0x00FFFFFF
    ∧ extractPixel (shiftOf 0x000000FF) (shiftOf 0x0000FF00) (shiftOf 0x00FF0000) src
      = ((src &&& 0xFF) <<< 16) ||| (src &&& 0xFF00) ||| ((src >>> 16) &&& 0xFF)

/-- The remapper undoes the palette: a colour code extracts to the same `0x00RRGGBB` word in every
well-formed format (rules R140 and R150; D18 for the components). -/
def Obligations.ExtractionUndoesPalette : Prop :=
  ∀ (r g b : Word) (c : Byte), wellFormedFormat r g b = true →
    extractPixel (shiftOf r) (shiftOf g) (shiftOf b) (paletteEntry r g b c)
      = Claims.rgb (expandRed c) (expandGreen c) (expandBlue c)

/-! ## Headlines -/

/-- The source's scenario (spec/95_test_vectors.md T7, rule R133; D11 for the row roles): INIT, one solid
white line placed in the raster, then the two rows extract to full and to dimmed white, in every
well-formed format, at every offset, in both geometries. -/
def Obligations.WhiteLineExtractsToWhite : Prop :=
  ∀ (s : State) (a l h v : Word), s.surface.ok = true → s.surface.bpp = 4 →
    wellFormedFormat s.surface.rmask s.surface.gmask s.surface.bmask = true →
    (∀ k < 2048, s.mem.readSmp k = 0xFF) → (Claims.row s l).toNat < s.height →
    ∃ t u w x, exec .init s = .next t ∧ exec (.renderline a l h v) t = .next u
      ∧ exec (.extractrow (Claims.row s l ^^^ 1)) u = .next w
      ∧ (∀ i < s.width, w.mem.readDst i = 0x00FFFFFF)
      ∧ exec (.extractrow (Claims.row s l)) w = .next x
      ∧ (∀ i < s.width, x.mem.readDst i = 0x00BDBDBD)

/-- Channel-order independence end to end (rules R140 and R150, spec/95_test_vectors.md P4; D10, D11, D12
and D18): a line rendered and its two rows extracted give words that depend on the samples and on
`HOFF`, and not on the channel order of the surface. -/
def Obligations.ExtractedLineIgnoresChannelOrder : Prop :=
  ∀ (s : State) (a l h v : Word), s.Inv → s.mode = .initialized →
    wellFormedFormat s.rmask s.gmask s.bmask = true → (Claims.row s l).toNat < s.height →
    ∃ u w x, exec (.renderline a l h v) s = .next u
      ∧ exec (.extractrow (Claims.row s l ^^^ 1)) u = .next w
      ∧ (∀ i < s.width, w.mem.readDst i = Claims.rgb (Claims.pixelSum expandRed s i)
          (Claims.pixelSum expandGreen s i) (Claims.pixelSum expandBlue s i))
      ∧ exec (.extractrow (Claims.row s l)) w = .next x
      ∧ (∀ i < s.width, x.mem.readDst i = Claims.rgb (Claims.pixelSum expandRed s i / 4 * 3)
          (Claims.pixelSum expandGreen s i / 4 * 3) (Claims.pixelSum expandBlue s i / 4 * 3))

/-! ## Reset, invariants and the host -/

/-- The state after hardware reset, for every strap (rules R39 and R210; the values of the registers and
of the event count are the spec's own choice D15). That the port is empty is the model's choice of log
entry 5, that no response is recorded that of log entry 6; rule R39 has no row for either. -/
def Obligations.ResetIsUninitialized : Prop :=
  (∀ p : Strap,
    let s := State.resetOf p
    s.mode = .uninitialized ∧ s.hoff = p.hoffReset ∧ s.voff = p.voffReset
    ∧ s.fullscreen = p.fullscreenReset ∧ s.strap = p ∧ s.fsActive = false ∧ s.prevline = 0
    ∧ s.frameEvents = 0 ∧ s.port = [] ∧ s.responses = [])
  ∧ State.reset.hoff = 0 ∧ State.reset.voff = 0 ∧ State.reset.fullscreen = false

/-- The invariants of rule R38 hold after reset, for every strap with legal reset parameters (D15). -/
def Obligations.ResetMeetsInvariant : Prop :=
  (∀ p : Strap, Strap.legal p → (State.resetOf p).Inv) ∧ State.reset.Inv

/-- Every step keeps the invariants of rule R38 and the canonical form of the memories, and no step
changes the strap: a command, an illegal header, an action of the host, a reset. -/
def Obligations.StepKeepsInvariant : Prop :=
  ∀ s t : State, s.Inv → step s = .next t → t.Inv ∧ t.strap = s.strap

/-- The clamp property (rule R169; the bounds are D13 and D14): after any run from a state that meets the
invariants, GETPROP answers offsets in their ranges. -/
def Obligations.OffsetsStayInRange : Prop :=
  ∀ (n : Nat) (s t : State), s.Inv → Host.Core.run Sys2Proof.core n s = .next t →
    ∃ x y : Word, exec .getpropHoff t = .next (Claims.answered t x)
      ∧ x.toNat ≤ (if s.strap.debug then 200 else 606)
      ∧ exec .getpropVoff t = .next (Claims.answered t y)
      ∧ y.toNat ≤ (if s.strap.debug then 0 else 77)

/-- Between two commands the host and the environment reach the block through the port, `SMP`, `DST` and
the surface answer alone (rules R63 and R216); the only other event is a hardware reset (rule R210), which
leaves the Uninitialized state with the properties at their reset parameters, `FS_ACTIVE`, `PREVLINE` and
the event count 0 (D15). The rest is the model's choice: how the host acts, log entry 5; that the recorded
responses stay, log entries 6 and 11; that a hardware reset keeps the reads of `SMP` and `DST` and the
surface answer, log entry 11 (rule R39 calls `DST` unspecified after reset). -/
def Obligations.HostReachesBlockThroughPins : Prop :=
  ∀ (s : State) (a : HostAction) (later : List HostAction),
    s.port = [] → s.host = a :: later →
    ∃ t, step s = .next t ∧ t.host = later ∧ t.strap = s.strap ∧ t.responses = s.responses
      ∧ (a ≠ .hardReset →
          t.mode = s.mode ∧ t.hoff = s.hoff ∧ t.voff = s.voff ∧ t.fullscreen = s.fullscreen
          ∧ t.fsActive = s.fsActive ∧ t.prevline = s.prevline ∧ t.rmask = s.rmask
          ∧ t.gmask = s.gmask ∧ t.bmask = s.bmask ∧ t.bpp = s.bpp ∧ t.frameEvents = s.frameEvents
          ∧ (∀ c, t.mem.readPal c = s.mem.readPal c)
          ∧ (∀ r c, t.mem.readRaster r c = s.mem.readRaster r c)
          ∧ (∀ r, t.mem.readFilled r = s.mem.readFilled r))
      ∧ (a = .hardReset →
          t.mode = .uninitialized ∧ t.hoff = s.strap.hoffReset ∧ t.voff = s.strap.voffReset
          ∧ t.fullscreen = s.strap.fullscreenReset ∧ t.fsActive = false ∧ t.prevline = 0
          ∧ t.frameEvents = 0 ∧ t.surface = s.surface
          ∧ (∀ k, t.mem.readSmp k = s.mem.readSmp k) ∧ (∀ i, t.mem.readDst i = s.mem.readDst i))

/-- A run (rule R224): with the packets of a list of well-formed commands on the port and a host that has
finished, the run executes the commands in their order, ends after the last response, and its observable
result is the sequence of responses, the final `FRAME_EVENTS`, the contents of `DST` after each EXTRACTROW,
and the registers as GETPROP answers them in the final state. The port and the end of the run as the stop
`noCommand` are the model's choices of log entries 5 and 10. -/
def Obligations.RunOfCommandsIsObserved : Prop :=
  ∀ (is : List Instr) (s : State), (∀ i ∈ is, i.wellFormed = true) → s.host = [] →
    let s₀ : State := { s with port := is.flatMap encode }
    let t := Claims.finalState is s
    let o := observeRun is.length s₀
    step (lastState is.length s₀) = .fault .noCommand
    ∧ (Claims.trace is s).map Prod.fst = is
    ∧ o.responses = (Claims.trace is s).filterMap (fun e => e.2.responses.head?)
    ∧ o.responses.length = is.length
    ∧ o.frameEvents = t.frameEvents
    ∧ o.rows = (Claims.trace is s).filterMap (fun e =>
        match e.1 with
        | .extractrow _ => some ((List.range e.2.width).map e.2.mem.readDst)
        | _ => none)
    ∧ exec .getpropHoff t = .next (Claims.answered t o.properties.hoff)
    ∧ exec .getpropVoff t = .next (Claims.answered t o.properties.voff)
    ∧ exec .getpropFullscreen t = .next (Claims.answered t o.properties.fullscreen)
    ∧ exec .getpropWidth t = .next (Claims.answered t o.properties.width)
    ∧ exec .getpropHeight t = .next (Claims.answered t o.properties.height)
    ∧ exec .getpropDebug t = .next (Claims.answered t o.properties.debug)
end

