-- ==== Sys2Proof/Laws/Cells.lean ====
section
/-! SUPPORT. The laws of the sparse memories: what a read sees after a write or a rewriting of a
prefix, and that both keep the canonical form. -/

namespace Sys2Proof.Machine

variable {α : Type}

@[simp] theorem Cells.find_nil (i : Nat) : Cells.find ([] : Cells α) i = none := rfl

theorem Cells.find_cons (k : Nat) (x : α) (m : Cells α) (i : Nat) :
    Cells.find ((k, x) :: m) i = if k = i then some x else Cells.find m i := rfl

theorem Cells.find_append (m n : Cells α) (i : Nat) :
    Cells.find (m ++ n) i = (Cells.find m i).or (Cells.find n i) := by
  induction m with
  | nil => rfl
  | cons e m ih =>
    obtain ⟨k, x⟩ := e
    by_cases h : k = i <;> simp [Cells.find_cons, h, ih]

/-- Read after write. -/
theorem Cells.find_put (m : Cells α) (i : Nat) (x : α) (j : Nat) :
    Cells.find (Cells.put m i x) j = if j = i then some x else Cells.find m j := by
  induction m with
  | nil => simp only [Cells.put, Cells.find]; grind
  | cons e m ih =>
    obtain ⟨k, y⟩ := e
    simp only [Cells.put]
    split
    · simp only [Cells.find_cons]; grind
    · split
      · simp only [Cells.find_cons]; grind
      · simp only [Cells.find_cons, ih]; grind

theorem Cells.find_filterMap_range' (f : Nat → Option α) (n a j : Nat) :
    Cells.find ((List.range' a n).filterMap fun k => (f k).map (Prod.mk k)) j
      = if a ≤ j ∧ j < a + n then f j else none := by
  induction n generalizing a with
  | zero => rw [if_neg (by omega)]; rfl
  | succ n ih =>
    rw [List.range'_succ, List.filterMap_cons]
    cases hf : f a with
    | none =>
      simp only [Option.map_none, ih]
      by_cases h : a = j
      · subst h; simp [hf]
      · congr 1; simp; omega
    | some x =>
      simp only [Option.map_some, Cells.find_cons, ih]
      by_cases h : a = j
      · subst h; simp [hf]
      · rw [if_neg h]; congr 1; simp; omega

theorem Cells.find_filter_ge (m : Cells α) (n j : Nat) :
    Cells.find (m.filter fun e => decide (n ≤ e.1)) j = if n ≤ j then Cells.find m j else none := by
  induction m with
  | nil => simp
  | cons e m ih =>
    obtain ⟨k, x⟩ := e
    by_cases hk : n ≤ k
    · simp only [List.filter_cons_of_pos (p := fun e : Nat × α => decide (n ≤ e.1)) (a := (k, x))
        (by simpa using hk), Cells.find_cons, ih]
      grind
    · rw [List.filter_cons_of_neg (by simpa using hk), ih, Cells.find_cons]
      grind

/-- Read after a rewriting of the indices below `n`. -/
theorem Cells.find_rebuild (n : Nat) (f : Nat → Option α) (m : Cells α) (j : Nat) :
    Cells.find (Cells.rebuild n f m) j = if j < n then f j else Cells.find m j := by
  rw [Cells.rebuild, Cells.find_append, List.range_eq_range', Cells.find_filterMap_range',
    Cells.find_filter_ge]
  by_cases h : j < n
  · simp [h, show ¬ n ≤ j by omega]
  · simp [h, show n ≤ j by omega]

/-! ## The canonical form is kept -/

theorem Cells.wf_nil (n : Nat) : Cells.wf n ([] : Cells α) := by simp [Cells.wf]

theorem Cells.mem_put {m : Cells α} {i : Nat} {x : α} {e : Nat × α} (h : e ∈ Cells.put m i x) :
    e = (i, x) ∨ e ∈ m := by
  induction m with
  | nil => simpa [Cells.put] using h
  | cons a m ih =>
    obtain ⟨k, y⟩ := a
    simp only [Cells.put] at h
    split at h
    · simpa using h
    · split at h
      · simp only [List.mem_cons] at h ⊢; tauto
      · simp only [List.mem_cons] at h ⊢
        rcases h with h | h
        · exact .inr (.inl h)
        · exact (ih h).imp id .inr

theorem Cells.put_wf {n : Nat} {m : Cells α} {i : Nat} (x : α) (hm : Cells.wf n m) (hi : i < n) :
    Cells.wf n (Cells.put m i x) := by
  refine ⟨?_, fun e he => ?_⟩
  · have hs := hm.1
    clear hm
    induction m with
    | nil => simp [Cells.put]
    | cons a m ih =>
      obtain ⟨k, y⟩ := a
      simp only [List.map_cons, List.pairwise_cons] at hs
      simp only [Cells.put]
      split
      · rename_i hik
        simp only [List.map_cons, List.pairwise_cons, List.mem_cons, forall_eq_or_imp]
        exact ⟨⟨hik, fun b hb => hik.trans (hs.1 b hb)⟩, hs⟩
      · split
        · rename_i h; subst h; exact List.pairwise_cons.2 hs
        · simp only [List.map_cons, List.pairwise_cons]
          refine ⟨fun b hb => ?_, ih hs.2⟩
          obtain ⟨e, he, rfl⟩ := List.mem_map.1 hb
          rcases Cells.mem_put he with rfl | he
          · show k < i; omega
          · exact hs.1 _ (List.mem_map_of_mem he)
  · rcases Cells.mem_put he with rfl | he
    · exact hi
    · exact hm.2 e he

theorem Cells.mem_rebuild {n : Nat} {f : Nat → Option α} {m : Cells α} {e : Nat × α}
    (h : e ∈ Cells.rebuild n f m) : (e.1 < n ∧ f e.1 = some e.2) ∨ e ∈ m := by
  simp only [Cells.rebuild, List.mem_append, List.mem_filterMap, List.mem_range, Option.map_eq_some_iff,
    List.mem_filter] at h
  rcases h with ⟨k, hk, x, hx, rfl⟩ | ⟨h, -⟩
  · exact .inl ⟨hk, hx⟩
  · exact .inr h

theorem Cells.pairwise_filterMap_range (f : Nat → Option α) (n : Nat) :
    (((List.range n).filterMap fun k => (f k).map (Prod.mk k)).map Prod.fst).Pairwise (· < ·) := by
  rw [List.pairwise_map, List.pairwise_filterMap]
  refine List.Pairwise.imp ?_ List.pairwise_lt_range
  intro a b hab x hx y hy
  obtain ⟨_, _, rfl⟩ := Option.map_eq_some_iff.1 hx
  obtain ⟨_, _, rfl⟩ := Option.map_eq_some_iff.1 hy
  exact hab

theorem Cells.rebuild_wf {n N : Nat} (f : Nat → Option α) {m : Cells α} (hm : Cells.wf N m)
    (hn : n ≤ N) : Cells.wf N (Cells.rebuild n f m) := by
  refine ⟨?_, fun e he => ?_⟩
  · rw [Cells.rebuild, List.map_append, List.pairwise_append]
    refine ⟨Cells.pairwise_filterMap_range f n, ?_, ?_⟩
    · exact hm.1.sublist (List.filter_sublist.map _)
    · intro a ha b hb
      simp only [List.mem_map, List.mem_filterMap, List.mem_range, Option.map_eq_some_iff,
        List.mem_filter, decide_eq_true_eq] at ha hb
      obtain ⟨_, ⟨k, hk, x, _, rfl⟩, rfl⟩ := ha
      obtain ⟨e, ⟨_, he⟩, rfl⟩ := hb
      exact lt_of_lt_of_le hk he
  · rcases Cells.mem_rebuild he with ⟨h, -⟩ | h
    · omega
    · exact hm.2 e h

end Sys2Proof.Machine
end

