-- ==== Sys2Proof/Laws/Lanes.lean ====
section
/-! SUPPORT. Byte lanes: what the bitwise operations, the nibble reduction, the weighted sum and the
dimming do to each lane (spec/41_resampler.md rules R102 to R108). -/

namespace Sys2Proof

theorem lane_toNat (j : Nat) (x : Word) : (lane j x).toNat = x.toNat / 2 ^ (8 * j) % 256 := by
  simp [lane, BitVec.extractLsb'_toNat, Nat.shiftRight_eq_div_pow]

@[simp] theorem lane_or (j : Nat) (x y : Word) : lane j (x ||| y) = lane j x ||| lane j y := by
  ext i hi; simp [lane]

@[simp] theorem lane_zero (j : Nat) : lane j 0 = 0 := by
  ext i hi; simp [lane]

/-- Four lanes make the word. -/
theorem word_toNat_lanes (x : Word) :
    x.toNat = (lane 0 x).toNat + 256 * (lane 1 x).toNat + 65536 * (lane 2 x).toNat
      + 16777216 * (lane 3 x).toNat := by
  have := x.isLt
  simp only [lane_toNat]
  norm_num
  omega

theorem word_eq_of_lanes {x y : Word} (h : ∀ j < 4, lane j x = lane j y) : x = y := by
  apply BitVec.eq_of_toNat_eq
  rw [word_toNat_lanes x, word_toNat_lanes y, h 0, h 1, h 2, h 3] <;> decide

/-- A word put together from four small numbers has them as its lanes. -/
theorem lane_of_digits {z : Word} {f : Nat → Nat} (hf : ∀ j < 4, f j < 256)
    (hz : z.toNat = f 0 + 256 * f 1 + 65536 * f 2 + 16777216 * f 3) {j : Nat} (hj : j < 4) :
    (lane j z).toNat = f j := by
  have h0 := hf 0 (by decide)
  have h1 := hf 1 (by decide)
  have h2 := hf 2 (by decide)
  have h3 := hf 3 (by decide)
  rw [lane_toNat, hz]
  interval_cases j <;> norm_num <;> omega

/-- A sum whose lanes stay below 256 is a sum in every lane. -/
theorem lane_add {x y : Word} (h : ∀ j < 4, (lane j x).toNat + (lane j y).toNat < 256) {j : Nat}
    (hj : j < 4) : (lane j (x + y)).toNat = (lane j x).toNat + (lane j y).toNat := by
  refine lane_of_digits (f := fun j => (lane j x).toNat + (lane j y).toNat) h ?_ hj
  have h0 := h 0 (by decide)
  have h1 := h 1 (by decide)
  have h2 := h 2 (by decide)
  have h3 := h 3 (by decide)
  rw [BitVec.toNat_add, word_toNat_lanes x, word_toNat_lanes y]
  omega

/-- A multiple whose lanes stay below 256 is a multiple in every lane. -/
theorem lane_mul {w x : Word} (h : ∀ j < 4, w.toNat * (lane j x).toNat < 256) {j : Nat}
    (hj : j < 4) : (lane j (w * x)).toNat = w.toNat * (lane j x).toNat := by
  refine lane_of_digits (f := fun j => w.toNat * (lane j x).toNat) h ?_ hj
  have h0 := h 0 (by decide)
  have h1 := h 1 (by decide)
  have h2 := h 2 (by decide)
  have h3 := h 3 (by decide)
  have e : w.toNat * x.toNat = w.toNat * (lane 0 x).toNat + 256 * (w.toNat * (lane 1 x).toNat)
      + 65536 * (w.toNat * (lane 2 x).toNat) + 16777216 * (w.toNat * (lane 3 x).toNat) := by
    rw [word_toNat_lanes x]; ring
  rw [BitVec.toNat_mul, e]
  omega

namespace Machine

/-- The nibble reduction shifts every lane by 4 (rule R102). -/
theorem lane_nibble (x : Word) {j : Nat} (hj : j < 4) :
    lane j ((x &&& 0xF0F0F0F0) >>> 4) = lane j x >>> 4 := by
  ext i hi
  interval_cases j <;> interval_cases i <;> simp [lane]

theorem lane_tap (look : Word → Word) (k : Word) {j : Nat} (hj : j < 4) :
    (lane j (tap look k)).toNat = (lane j (look k)).toNat / 16 := by
  rw [tap, lane_nibble _ hj, BitVec.toNat_ushiftRight, Nat.shiftRight_eq_div_pow]

/-- The mask and the shift of the dimmed output shift every lane by 2 (rule R107). -/
theorem lane_dimShift (x : Word) {j : Nat} (hj : j < 4) :
    lane j ((x &&& 0xFCFCFCFC) >>> 2) = lane j x >>> 2 := by
  ext i hi
  interval_cases j <;> interval_cases i <;> simp [lane]

/-- What the weighted sum adds up in one lane. -/
def laneSum (j : Nat) (look : Word → Word) : List Word → Word → Nat
  | [], _ => 0
  | w :: ws, k => w.toNat * ((lane j (look k)).toNat / 16) + laneSum j look ws (k + 1)

theorem laneSum_le (j : Nat) (look : Word → Word) (ws : List Word) (k : Word) :
    laneSum j look ws k ≤ (ws.map BitVec.toNat).sum * 15 := by
  induction ws generalizing k with
  | nil => simp [laneSum]
  | cons w ws ih =>
    have h15 : (lane j (look k)).toNat / 16 ≤ 15 := by have := (lane j (look k)).isLt; omega
    have := Nat.mul_le_mul_left w.toNat h15
    have := ih (k + 1)
    simp only [laneSum, List.map_cons, List.sum_cons, Nat.add_mul]
    omega

/-- No lane carries while the weights sum to at most 17 (rule R105). -/
theorem lane_weighted (look : Word → Word) (ws : List Word) (k : Word)
    (hw : (ws.map BitVec.toNat).sum ≤ 17) {j : Nat} (hj : j < 4) :
    (lane j (weighted look ws k)).toNat = laneSum j look ws k := by
  induction ws generalizing k j with
  | nil => rw [weighted, lane_zero]; rfl
  | cons w ws ih =>
    simp only [List.map_cons, List.sum_cons] at hw
    have hle : ∀ j, w.toNat * ((lane j (look k)).toNat / 16) ≤ w.toNat * 15 := fun j =>
      Nat.mul_le_mul_left _ (by have := (lane j (look k)).isLt; omega)
    have hm : ∀ j < 4, (lane j (w * tap look k)).toNat = w.toNat * ((lane j (look k)).toNat / 16) := by
      intro j hj
      rw [lane_mul _ hj, lane_tap _ _ hj]
      intro i hi
      rw [lane_tap _ _ hi]
      have := hle i
      omega
    rw [weighted, lane_add _ hj, hm j hj, ih (k + 1) (by omega) hj, laneSum]
    intro i hi
    rw [hm i hi, ih (k + 1) (by omega) hi]
    have := hle i
    have := laneSum_le i look ws (k + 1)
    omega

/-- The dimmed output in one lane (rule R108). -/
theorem lane_dim (x : Word) {j : Nat} (hj : j < 4) :
    (lane j (dim x)).toNat = (lane j x).toNat / 4 * 3 := by
  have e : ∀ i < 4, (lane i ((x &&& 0xFCFCFCFC) >>> 2)).toNat = (lane i x).toNat / 4 := by
    intro i hi
    rw [lane_dimShift _ hi, BitVec.toNat_ushiftRight, Nat.shiftRight_eq_div_pow]
  rw [dim, BitVec.mul_comm, lane_mul _ hj, e j hj]
  · show 3 * _ = _; omega
  · intro i hi
    rw [e i hi]
    have := (lane i x).isLt
    show 3 * _ < 256
    omega

theorem weights_sum (p : Nat) : ((weights p).map BitVec.toNat).sum = 17 := by
  match p with
  | 0 => rfl
  | 1 => rfl
  | _ + 2 => rfl

theorem lane_fullPixel (look : Word → Word) (off : Word) (i : Nat) {j : Nat} (hj : j < 4) :
    (lane j (fullPixel look off i)).toNat = laneSum j look (weights (i % 3)) (windowStart off i) :=
  lane_weighted look _ _ (weights_sum _).le hj

/-! ## The lengths of the two sequences -/

theorem pixelCount_width (d : Bool) : pixelCount (width d) = width d := by cases d <;> rfl

theorem resample_fst (look : Word → Word) (off : Word) (len : Nat) :
    (resample look off len).1 = (List.range (pixelCount len)).map (fullPixel look off) := rfl

theorem resample_snd (look : Word → Word) (off : Word) (len : Nat) :
    (resample look off len).2 = (resample look off len).1.map dim := rfl

@[simp] theorem resample_fst_length (look : Word → Word) (off : Word) (len : Nat) :
    (resample look off len).1.length = pixelCount len := by simp [resample_fst]

@[simp] theorem resample_snd_length (look : Word → Word) (off : Word) (len : Nat) :
    (resample look off len).2.length = pixelCount len := by simp [resample_snd]

theorem resample_fst_get (look : Word → Word) (off : Word) (len i : Nat)
    (h : i < (resample look off len).1.length) :
    (resample look off len).1[i] = fullPixel look off i := by simp [resample_fst]

theorem resample_snd_get (look : Word → Word) (off : Word) (len i : Nat)
    (h : i < (resample look off len).2.length) :
    (resample look off len).2[i] = dim (fullPixel look off i) := by
  simp [resample_snd, resample_fst]

end Machine

end Sys2Proof
end

