-- ==== Sys2Proof/Laws/Channels.lean ====
section
/-! SUPPORT. Well-formed formats: each channel is one byte lane, the palette fills those lanes, and the
remapper reads them back (spec/40_palette.md rules R92 to R96, spec/43_channel_remapper.md rules R143
to R148). -/

namespace Sys2Proof.Machine

/-- The mask of lane `k`. -/
def laneMask (k : Nat) : Word := 0xFF <<< (8 * k)

/-- A well-formed format picks three different lanes (spec/10_state.md rule R31). -/
theorem wellFormedFormat_lanes {r g b : Word} (h : wellFormedFormat r g b = true) :
    ∃ kr kg kb : Nat, kr < 4 ∧ kg < 4 ∧ kb < 4 ∧ kr ≠ kg ∧ kg ≠ kb ∧ kr ≠ kb
      ∧ r = laneMask kr ∧ g = laneMask kg ∧ b = laneMask kb := by
  have hl : ∀ m : Word, laneMasks.contains m = true → ∃ k < 4, m = laneMask k := by
    intro m hm
    simp only [laneMasks, List.contains_iff_mem, List.mem_cons, List.not_mem_nil, or_false] at hm
    rcases hm with rfl | rfl | rfl | rfl
    exacts [⟨0, by decide, rfl⟩, ⟨1, by decide, rfl⟩, ⟨2, by decide, rfl⟩, ⟨3, by decide, rfl⟩]
  simp only [wellFormedFormat, Bool.and_eq_true, bne_iff_ne] at h
  obtain ⟨⟨⟨⟨⟨hr, hg⟩, hb⟩, hrg⟩, hgb⟩, hrb⟩ := h
  obtain ⟨kr, hkr, rfl⟩ := hl r hr
  obtain ⟨kg, hkg, rfl⟩ := hl g hg
  obtain ⟨kb, hkb, rfl⟩ := hl b hb
  exact ⟨kr, kg, kb, hkr, hkg, hkb, fun e => hrg (e ▸ rfl), fun e => hgb (e ▸ rfl),
    fun e => hrb (e ▸ rfl), rfl, rfl, rfl⟩

theorem ctz_laneMask {k : Nat} (hk : k < 4) : ctz (laneMask k) = 8 * k := by
  interval_cases k <;> decide

theorem shiftOf_laneMask {k : Nat} (hk : k < 4) : shiftOf (laneMask k) = 8 * k := by
  interval_cases k <;> decide

/-- The shift of a zero mask is free, and a legal shift amount (rule R179 (d)). -/
theorem shiftOf_zero_lt : shiftOf 0 < 32 := Config.shiftOfZero.isLt

/-- A component shifted into a lane fills that lane and no other. -/
theorem lane_shiftLeft (v : Nat) {j k : Nat} (hj : j < 4) (hk : k < 4) (hv : v < 256) :
    lane j (BitVec.ofNat 32 v <<< (8 * k)) = if j = k then BitVec.ofNat 8 v else 0 := by
  apply BitVec.eq_of_toNat_eq
  rw [lane_toNat, BitVec.toNat_shiftLeft, BitVec.toNat_ofNat, Nat.shiftLeft_eq]
  interval_cases j <;> interval_cases k <;> simp <;> omega

theorem expandRed_lt (c : Byte) : expandRed c < 256 := by
  have := (c.extractLsb' 0 3).isLt
  unfold expandRed; omega

theorem expandGreen_lt (c : Byte) : expandGreen c < 256 := by
  have := (c.extractLsb' 3 3).isLt
  unfold expandGreen; omega

theorem expandBlue_lt (c : Byte) : expandBlue c < 256 := by
  have := (c.extractLsb' 6 2).isLt
  unfold expandBlue; omega

/-- The lanes of a palette entry of a well-formed format: each component in its channel's lane, zero in
the padding lane (rules R92 and R94). -/
theorem lane_paletteEntry {kr kg kb : Nat} (hr : kr < 4) (hg : kg < 4) (hb : kb < 4) (hrg : kr ≠ kg)
    (hgb : kg ≠ kb) (hrb : kr ≠ kb) (c : Byte) {j : Nat} (hj : j < 4) :
    lane j (paletteEntry (laneMask kr) (laneMask kg) (laneMask kb) c)
      = if j = kr then BitVec.ofNat 8 (expandRed c)
        else if j = kg then BitVec.ofNat 8 (expandGreen c)
        else if j = kb then BitVec.ofNat 8 (expandBlue c) else 0 := by
  rw [paletteEntry, ctz_laneMask hr, ctz_laneMask hg, ctz_laneMask hb, lane_or, lane_or,
    lane_shiftLeft _ hj hr (expandRed_lt c), lane_shiftLeft _ hj hg (expandGreen_lt c),
    lane_shiftLeft _ hj hb (expandBlue_lt c)]
  by_cases h1 : j = kr
  · subst h1; simp [hrg, hrb]
  · by_cases h2 : j = kg
    · subst h2; simp [h1, hgb]
    · simp [h1, h2]

/-- Reading lane `k` back through a shift and the mask `0xFF` (rule R145). -/
theorem shiftRight_lane (x : Word) (k : Nat) :
    (x >>> (8 * k)) &&& 0xFF = (lane k x).setWidth 32 := by
  apply BitVec.eq_of_toNat_eq
  have h : (0xFF : Word).toNat = 2 ^ 8 - 1 := rfl
  rw [BitVec.toNat_and, h, Nat.and_two_pow_sub_one_eq_mod, BitVec.toNat_setWidth, lane_toNat,
    BitVec.toNat_ushiftRight, Nat.shiftRight_eq_div_pow]
  omega

/-- Packed `0x00RRGGBB` from three components. -/
def packRgb (r g b : Byte) : Word := (r.setWidth 32 <<< 16) ||| (g.setWidth 32 <<< 8) ||| b.setWidth 32

/-- The remapper on a well-formed format reads the three channel lanes (rules R140 and R145). -/
theorem extractPixel_lanes {kr kg kb : Nat} (hr : kr < 4) (hg : kg < 4) (hb : kb < 4) (x : Word) :
    extractPixel (shiftOf (laneMask kr)) (shiftOf (laneMask kg)) (shiftOf (laneMask kb)) x
      = packRgb (lane kr x) (lane kg x) (lane kb x) := by
  rw [extractPixel, shiftOf_laneMask hr, shiftOf_laneMask hg, shiftOf_laneMask hb,
    shiftRight_lane, shiftRight_lane, shiftRight_lane, packRgb]

/-- The narrowing loop counts how far the highest set bit stands above bit 7 (rule R143). -/
theorem narrow_eq (n : Nat) (wm : Word) (sh : Nat) (h : wm.toNat < 2 ^ (n + 8)) :
    narrow n wm sh = sh + (wm.toNat.log2 - 7) := by
  have hsmall : ∀ w : Word, w.toNat < 256 → w.toNat.log2 - 7 = 0 := by
    intro w hw
    by_cases h0 : w.toNat = 0
    · simp [h0]
    · have := (Nat.log2_lt h0 (k := 8)).2 (by omega); omega
  induction n generalizing wm sh with
  | zero => rw [narrow, hsmall wm (by simpa using h)]; rfl
  | succ n ih =>
    rw [narrow]
    split
    · rename_i hbig
      have hge : 8 ≤ wm.toNat.log2 := (Nat.le_log2 (by omega)).2 (by omega)
      have hs : (wm >>> 1).toNat = wm.toNat / 2 := by
        rw [BitVec.toNat_ushiftRight, Nat.shiftRight_eq_div_pow]
      have hl : wm.toNat.log2 = (wm.toNat / 2).log2 + 1 := by
        rw [Nat.log2_def, if_pos (by omega)]
      have hb : wm.toNat < 2 ^ (n + 8) * 2 := by rw [← pow_succ]; exact h
      rw [ih _ _ (by rw [hs]; omega), hs]
      omega
    · rw [hsmall wm (by omega)]; rfl

end Sys2Proof.Machine
end

