-- ==== Sys2Proof/Laws/Decode.lean ====
section
/-! SUPPORT. The header's fields: the encoder's header carries them, a header with `RSV = 0` is made of
them (spec/30_encoding.md rule R72), and what fetching a packet finds. -/

namespace Sys2Proof

@[simp] theorem headerOp_header (op pid : BitVec 4) (d : Bool) : headerOp (header op pid d) = op := by
  revert op pid d; decide +kernel

@[simp] theorem headerPid_header (op pid : BitVec 4) (d : Bool) :
    headerPid (header op pid d) = pid := by revert op pid d; decide +kernel

@[simp] theorem headerDef_header (op pid : BitVec 4) (d : Bool) : headerDef (header op pid d) = d := by
  revert op pid d; decide +kernel

@[simp] theorem headerRsv_header (op pid : BitVec 4) (d : Bool) : headerRsv (header op pid d) = 0 := by
  revert op pid d; decide +kernel

/-- A header without reserved bits is made of its three fields. -/
theorem header_of_fields {h : Word} (hr : headerRsv h = 0) :
    h = header (headerOp h) (headerPid h) (headerDef h) := by
  have hlt : h.toNat < 512 := by
    have e : (headerRsv h).toNat = 0 := by rw [hr]; rfl
    simp only [headerRsv, BitVec.extractLsb'_toNat, Nat.shiftRight_eq_div_pow] at e
    have := h.isLt
    omega
  have hall : ∀ x : BitVec 9, x.setWidth 32
      = header (headerOp (x.setWidth 32)) (headerPid (x.setWidth 32)) (headerDef (x.setWidth 32)) := by
    decide +kernel
  have hx : (h.setWidth 9).setWidth 32 = h := by
    apply BitVec.eq_of_toNat_eq
    simp only [BitVec.toNat_setWidth]
    omega
  have := hall (h.setWidth 9)
  rwa [hx] at this

/-- A legal header, field by field (the complement of rule R79). -/
theorem headerReject_none {h : Word} :
    headerReject h = none ↔ (headerOp h).toNat < 6 ∧ headerRsv h = 0
      ∧ (headerPid h = 0 ∨ headerOp h = 3 ∨ headerOp h = 4)
      ∧ (headerDef h = false ∨ headerOp h = 3) := by
  unfold headerReject
  split
  · simp; omega
  · split
    · simp_all
    · split
      · rename_i h1 h2 h3
        simp only [reduceCtorEq, false_iff]
        tauto
      · split
        · rename_i h1 h2 h3 h4
          simp only [reduceCtorEq, false_iff]
          rintro ⟨-, -, -, h5 | h5⟩
          · simp [h5] at h4
          · exact h4.2 h5
        · rename_i h1 h2 h3 h4
          refine ⟨fun _ => ⟨by omega, by simpa using h2, by tauto, ?_⟩, fun _ => rfl⟩
          cases hd : headerDef h
          · exact .inl rfl
          · exact .inr (by by_contra h5; exact h4 ⟨hd, h5⟩)

/-- Why a header is illegal is never a lack of words. -/
theorem headerReject_ne_wait {h : Word} {why : Reject} (hr : headerReject h = some why) :
    why ≠ .truncated ∧ why ≠ .noWord := by
  unfold headerReject at hr
  split at hr
  · cases hr; decide
  · split at hr
    · cases hr; decide
    · split at hr
      · cases hr; decide
      · split at hr <;> cases hr
        decide

/-- Decoding behind a legal header. -/
theorem decode_of_legal {h : Word} (hr : headerReject h = none) (ws : List Word) :
    decode (h :: ws) = decodeOperands (headerOp h) (headerPid h) (headerDef h) ws := by
  rw [decode, hr]

/-- Decoding behind an illegal header. -/
theorem decode_of_illegal {h : Word} {why : Reject} (hr : headerReject h = some why)
    (ws : List Word) : decode (h :: ws) = .error why := by
  rw [decode, hr]

/-- Fetching a complete packet. -/
theorem fetch_of_decode {ws : List Word} {i : Instr} {rest : List Word}
    (h : decode ws = .ok (i, rest)) : fetch ws = .command i rest := by
  rw [fetch, h]

/-- Fetching an illegal header consumes that one word (rule R79). -/
theorem fetch_of_illegal {h : Word} {why : Reject} (hr : headerReject h = some why) (ws : List Word) :
    fetch (h :: ws) = .illegal why ws := by
  have hd := decode_of_illegal hr ws
  obtain ⟨h1, h2⟩ := headerReject_ne_wait hr
  rw [fetch, hd]
  cases why <;> simp_all

end Sys2Proof
end

