-- ==== Sys2Proof/Laws/State.lean ====
section
/-! SUPPORT. One lemma per field per update of State and Memory, true by rfl: later proofs cite these
and unfold no record update. -/

namespace Sys2Proof.Machine

/-! ## A response -/

@[simp] theorem State.respond_strap (s : State) (v : Word) : (s.respond v).strap = s.strap := rfl
@[simp] theorem State.respond_mode (s : State) (v : Word) : (s.respond v).mode = s.mode := rfl
@[simp] theorem State.respond_hoff (s : State) (v : Word) : (s.respond v).hoff = s.hoff := rfl
@[simp] theorem State.respond_voff (s : State) (v : Word) : (s.respond v).voff = s.voff := rfl
@[simp] theorem State.respond_fullscreen (s : State) (v : Word) :
    (s.respond v).fullscreen = s.fullscreen := rfl
@[simp] theorem State.respond_fsActive (s : State) (v : Word) :
    (s.respond v).fsActive = s.fsActive := rfl
@[simp] theorem State.respond_prevline (s : State) (v : Word) :
    (s.respond v).prevline = s.prevline := rfl
@[simp] theorem State.respond_rmask (s : State) (v : Word) : (s.respond v).rmask = s.rmask := rfl
@[simp] theorem State.respond_gmask (s : State) (v : Word) : (s.respond v).gmask = s.gmask := rfl
@[simp] theorem State.respond_bmask (s : State) (v : Word) : (s.respond v).bmask = s.bmask := rfl
@[simp] theorem State.respond_bpp (s : State) (v : Word) : (s.respond v).bpp = s.bpp := rfl
@[simp] theorem State.respond_mem (s : State) (v : Word) : (s.respond v).mem = s.mem := rfl
@[simp] theorem State.respond_frameEvents (s : State) (v : Word) :
    (s.respond v).frameEvents = s.frameEvents := rfl
@[simp] theorem State.respond_port (s : State) (v : Word) : (s.respond v).port = s.port := rfl
@[simp] theorem State.respond_host (s : State) (v : Word) : (s.respond v).host = s.host := rfl
@[simp] theorem State.respond_surface (s : State) (v : Word) :
    (s.respond v).surface = s.surface := rfl
@[simp] theorem State.respond_queries (s : State) (v : Word) :
    (s.respond v).queries = s.queries := rfl
@[simp] theorem State.respond_responses (s : State) (v : Word) :
    (s.respond v).responses = { rsp := v, ill := false } :: s.responses := rfl

/-! ## The answer to an illegal header -/

@[simp] theorem State.answerIllegal_strap (s : State) : s.answerIllegal.strap = s.strap := rfl
@[simp] theorem State.answerIllegal_mode (s : State) : s.answerIllegal.mode = s.mode := rfl
@[simp] theorem State.answerIllegal_hoff (s : State) : s.answerIllegal.hoff = s.hoff := rfl
@[simp] theorem State.answerIllegal_voff (s : State) : s.answerIllegal.voff = s.voff := rfl
@[simp] theorem State.answerIllegal_fullscreen (s : State) :
    s.answerIllegal.fullscreen = s.fullscreen := rfl
@[simp] theorem State.answerIllegal_fsActive (s : State) :
    s.answerIllegal.fsActive = s.fsActive := rfl
@[simp] theorem State.answerIllegal_prevline (s : State) :
    s.answerIllegal.prevline = s.prevline := rfl
@[simp] theorem State.answerIllegal_rmask (s : State) : s.answerIllegal.rmask = s.rmask := rfl
@[simp] theorem State.answerIllegal_gmask (s : State) : s.answerIllegal.gmask = s.gmask := rfl
@[simp] theorem State.answerIllegal_bmask (s : State) : s.answerIllegal.bmask = s.bmask := rfl
@[simp] theorem State.answerIllegal_bpp (s : State) : s.answerIllegal.bpp = s.bpp := rfl
@[simp] theorem State.answerIllegal_mem (s : State) : s.answerIllegal.mem = s.mem := rfl
@[simp] theorem State.answerIllegal_frameEvents (s : State) :
    s.answerIllegal.frameEvents = s.frameEvents := rfl
@[simp] theorem State.answerIllegal_port (s : State) : s.answerIllegal.port = s.port := rfl
@[simp] theorem State.answerIllegal_host (s : State) : s.answerIllegal.host = s.host := rfl
@[simp] theorem State.answerIllegal_surface (s : State) : s.answerIllegal.surface = s.surface := rfl
@[simp] theorem State.answerIllegal_queries (s : State) : s.answerIllegal.queries = s.queries := rfl
@[simp] theorem State.answerIllegal_responses (s : State) :
    s.answerIllegal.responses = { rsp := 0, ill := true } :: s.responses := rfl

/-! ## A surface query -/

@[simp] theorem State.query_strap (s : State) : s.query.strap = s.strap := rfl
@[simp] theorem State.query_mode (s : State) : s.query.mode = s.mode := rfl
@[simp] theorem State.query_hoff (s : State) : s.query.hoff = s.hoff := rfl
@[simp] theorem State.query_voff (s : State) : s.query.voff = s.voff := rfl
@[simp] theorem State.query_fullscreen (s : State) : s.query.fullscreen = s.fullscreen := rfl
@[simp] theorem State.query_fsActive (s : State) : s.query.fsActive = s.fsActive := rfl
@[simp] theorem State.query_prevline (s : State) : s.query.prevline = s.prevline := rfl
@[simp] theorem State.query_rmask (s : State) : s.query.rmask = s.rmask := rfl
@[simp] theorem State.query_gmask (s : State) : s.query.gmask = s.gmask := rfl
@[simp] theorem State.query_bmask (s : State) : s.query.bmask = s.bmask := rfl
@[simp] theorem State.query_bpp (s : State) : s.query.bpp = s.bpp := rfl
@[simp] theorem State.query_mem (s : State) : s.query.mem = s.mem := rfl
@[simp] theorem State.query_frameEvents (s : State) : s.query.frameEvents = s.frameEvents := rfl
@[simp] theorem State.query_port (s : State) : s.query.port = s.port := rfl
@[simp] theorem State.query_host (s : State) : s.query.host = s.host := rfl
@[simp] theorem State.query_surface (s : State) : s.query.surface = s.surface := rfl
@[simp] theorem State.query_queries (s : State) :
    s.query.queries = s.surfaceQuery :: s.queries := rfl
@[simp] theorem State.query_responses (s : State) : s.query.responses = s.responses := rfl

/-! ## The frame-ready event -/

@[simp] theorem State.emitFrameReady_strap (s : State) : s.emitFrameReady.strap = s.strap := rfl
@[simp] theorem State.emitFrameReady_mode (s : State) : s.emitFrameReady.mode = s.mode := rfl
@[simp] theorem State.emitFrameReady_hoff (s : State) : s.emitFrameReady.hoff = s.hoff := rfl
@[simp] theorem State.emitFrameReady_voff (s : State) : s.emitFrameReady.voff = s.voff := rfl
@[simp] theorem State.emitFrameReady_fullscreen (s : State) :
    s.emitFrameReady.fullscreen = s.fullscreen := rfl
@[simp] theorem State.emitFrameReady_fsActive (s : State) :
    s.emitFrameReady.fsActive = s.fsActive := rfl
@[simp] theorem State.emitFrameReady_prevline (s : State) :
    s.emitFrameReady.prevline = s.prevline := rfl
@[simp] theorem State.emitFrameReady_rmask (s : State) : s.emitFrameReady.rmask = s.rmask := rfl
@[simp] theorem State.emitFrameReady_gmask (s : State) : s.emitFrameReady.gmask = s.gmask := rfl
@[simp] theorem State.emitFrameReady_bmask (s : State) : s.emitFrameReady.bmask = s.bmask := rfl
@[simp] theorem State.emitFrameReady_bpp (s : State) : s.emitFrameReady.bpp = s.bpp := rfl
@[simp] theorem State.emitFrameReady_mem (s : State) : s.emitFrameReady.mem = s.mem := rfl
@[simp] theorem State.emitFrameReady_frameEvents (s : State) :
    s.emitFrameReady.frameEvents = s.frameEvents + 1 := rfl
@[simp] theorem State.emitFrameReady_port (s : State) : s.emitFrameReady.port = s.port := rfl
@[simp] theorem State.emitFrameReady_host (s : State) : s.emitFrameReady.host = s.host := rfl
@[simp] theorem State.emitFrameReady_surface (s : State) :
    s.emitFrameReady.surface = s.surface := rfl
@[simp] theorem State.emitFrameReady_queries (s : State) :
    s.emitFrameReady.queries = s.queries := rfl
@[simp] theorem State.emitFrameReady_responses (s : State) :
    s.emitFrameReady.responses = s.responses := rfl

/-! ## The line record -/

@[simp] theorem State.recordLine_strap (s : State) (l : Word) :
    (s.recordLine l).strap = s.strap := rfl
@[simp] theorem State.recordLine_mode (s : State) (l : Word) : (s.recordLine l).mode = s.mode := rfl
@[simp] theorem State.recordLine_hoff (s : State) (l : Word) : (s.recordLine l).hoff = s.hoff := rfl
@[simp] theorem State.recordLine_voff (s : State) (l : Word) : (s.recordLine l).voff = s.voff := rfl
@[simp] theorem State.recordLine_fullscreen (s : State) (l : Word) :
    (s.recordLine l).fullscreen = s.fullscreen := rfl
@[simp] theorem State.recordLine_fsActive (s : State) (l : Word) :
    (s.recordLine l).fsActive = s.fsActive := rfl
@[simp] theorem State.recordLine_prevline (s : State) (l : Word) :
    (s.recordLine l).prevline = l := rfl
@[simp] theorem State.recordLine_rmask (s : State) (l : Word) :
    (s.recordLine l).rmask = s.rmask := rfl
@[simp] theorem State.recordLine_gmask (s : State) (l : Word) :
    (s.recordLine l).gmask = s.gmask := rfl
@[simp] theorem State.recordLine_bmask (s : State) (l : Word) :
    (s.recordLine l).bmask = s.bmask := rfl
@[simp] theorem State.recordLine_bpp (s : State) (l : Word) : (s.recordLine l).bpp = s.bpp := rfl
@[simp] theorem State.recordLine_mem (s : State) (l : Word) : (s.recordLine l).mem = s.mem := rfl
@[simp] theorem State.recordLine_frameEvents (s : State) (l : Word) :
    (s.recordLine l).frameEvents = s.frameEvents := rfl
@[simp] theorem State.recordLine_port (s : State) (l : Word) : (s.recordLine l).port = s.port := rfl
@[simp] theorem State.recordLine_host (s : State) (l : Word) : (s.recordLine l).host = s.host := rfl
@[simp] theorem State.recordLine_surface (s : State) (l : Word) :
    (s.recordLine l).surface = s.surface := rfl
@[simp] theorem State.recordLine_queries (s : State) (l : Word) :
    (s.recordLine l).queries = s.queries := rfl
@[simp] theorem State.recordLine_responses (s : State) (l : Word) :
    (s.recordLine l).responses = s.responses := rfl

/-! ## The stored fullscreen flag -/

@[simp] theorem State.storeFullscreen_strap (s : State) (v : Word) :
    (s.storeFullscreen v).strap = s.strap := rfl
@[simp] theorem State.storeFullscreen_mode (s : State) (v : Word) :
    (s.storeFullscreen v).mode = s.mode := rfl
@[simp] theorem State.storeFullscreen_hoff (s : State) (v : Word) :
    (s.storeFullscreen v).hoff = s.hoff := rfl
@[simp] theorem State.storeFullscreen_voff (s : State) (v : Word) :
    (s.storeFullscreen v).voff = s.voff := rfl
@[simp] theorem State.storeFullscreen_fullscreen (s : State) (v : Word) :
    (s.storeFullscreen v).fullscreen = fullscreenOperand v := rfl
@[simp] theorem State.storeFullscreen_fsActive (s : State) (v : Word) :
    (s.storeFullscreen v).fsActive = s.fsActive := rfl
@[simp] theorem State.storeFullscreen_prevline (s : State) (v : Word) :
    (s.storeFullscreen v).prevline = s.prevline := rfl
@[simp] theorem State.storeFullscreen_rmask (s : State) (v : Word) :
    (s.storeFullscreen v).rmask = s.rmask := rfl
@[simp] theorem State.storeFullscreen_gmask (s : State) (v : Word) :
    (s.storeFullscreen v).gmask = s.gmask := rfl
@[simp] theorem State.storeFullscreen_bmask (s : State) (v : Word) :
    (s.storeFullscreen v).bmask = s.bmask := rfl
@[simp] theorem State.storeFullscreen_bpp (s : State) (v : Word) :
    (s.storeFullscreen v).bpp = s.bpp := rfl
@[simp] theorem State.storeFullscreen_mem (s : State) (v : Word) :
    (s.storeFullscreen v).mem = s.mem := rfl
@[simp] theorem State.storeFullscreen_frameEvents (s : State) (v : Word) :
    (s.storeFullscreen v).frameEvents = s.frameEvents := rfl
@[simp] theorem State.storeFullscreen_port (s : State) (v : Word) :
    (s.storeFullscreen v).port = s.port := rfl
@[simp] theorem State.storeFullscreen_host (s : State) (v : Word) :
    (s.storeFullscreen v).host = s.host := rfl
@[simp] theorem State.storeFullscreen_surface (s : State) (v : Word) :
    (s.storeFullscreen v).surface = s.surface := rfl
@[simp] theorem State.storeFullscreen_queries (s : State) (v : Word) :
    (s.storeFullscreen v).queries = s.queries := rfl
@[simp] theorem State.storeFullscreen_responses (s : State) (v : Word) :
    (s.storeFullscreen v).responses = s.responses := rfl

/-! ## A successful initialisation -/

@[simp] theorem State.initialised_strap (s : State) : s.initialised.strap = s.strap := rfl
@[simp] theorem State.initialised_mode (s : State) : s.initialised.mode = .initialized := rfl
@[simp] theorem State.initialised_hoff (s : State) : s.initialised.hoff = s.hoff := rfl
@[simp] theorem State.initialised_voff (s : State) : s.initialised.voff = s.voff := rfl
@[simp] theorem State.initialised_fullscreen (s : State) :
    s.initialised.fullscreen = s.fullscreen := rfl
@[simp] theorem State.initialised_fsActive (s : State) :
    s.initialised.fsActive = s.fullscreen := rfl
@[simp] theorem State.initialised_prevline (s : State) : s.initialised.prevline = 0 := rfl
@[simp] theorem State.initialised_rmask (s : State) : s.initialised.rmask = s.surface.rmask := rfl
@[simp] theorem State.initialised_gmask (s : State) : s.initialised.gmask = s.surface.gmask := rfl
@[simp] theorem State.initialised_bmask (s : State) : s.initialised.bmask = s.surface.bmask := rfl
@[simp] theorem State.initialised_bpp (s : State) : s.initialised.bpp = 4 := rfl
@[simp] theorem State.initialised_mem (s : State) :
    s.initialised.mem = (s.mem.reallocate.buildPalette s.surface.rmask s.surface.gmask s.surface.bmask).clearFilled s.height := rfl
@[simp] theorem State.initialised_frameEvents (s : State) :
    s.initialised.frameEvents = s.frameEvents := rfl
@[simp] theorem State.initialised_port (s : State) : s.initialised.port = s.port := rfl
@[simp] theorem State.initialised_host (s : State) : s.initialised.host = s.host := rfl
@[simp] theorem State.initialised_surface (s : State) : s.initialised.surface = s.surface := rfl
@[simp] theorem State.initialised_queries (s : State) : s.initialised.queries = s.queries := rfl
@[simp] theorem State.initialised_responses (s : State) :
    s.initialised.responses = s.responses := rfl

/-! ## A failed initialisation -/

@[simp] theorem State.initFailed_strap (s : State) : s.initFailed.strap = s.strap := rfl
@[simp] theorem State.initFailed_mode (s : State) : s.initFailed.mode = .uninitialized := rfl
@[simp] theorem State.initFailed_hoff (s : State) : s.initFailed.hoff = s.hoff := rfl
@[simp] theorem State.initFailed_voff (s : State) : s.initFailed.voff = s.voff := rfl
@[simp] theorem State.initFailed_fullscreen (s : State) :
    s.initFailed.fullscreen = s.fullscreen := rfl
@[simp] theorem State.initFailed_fsActive (s : State) : s.initFailed.fsActive = s.fsActive := rfl
@[simp] theorem State.initFailed_prevline (s : State) : s.initFailed.prevline = s.prevline := rfl
@[simp] theorem State.initFailed_rmask (s : State) :
    s.initFailed.rmask = Config.freeRmask (s.mem.draw + 1) := rfl
@[simp] theorem State.initFailed_gmask (s : State) :
    s.initFailed.gmask = Config.freeGmask (s.mem.draw + 1) := rfl
@[simp] theorem State.initFailed_bmask (s : State) :
    s.initFailed.bmask = Config.freeBmask (s.mem.draw + 1) := rfl
@[simp] theorem State.initFailed_bpp (s : State) :
    s.initFailed.bpp = Config.freeBpp (s.mem.draw + 1) := rfl
@[simp] theorem State.initFailed_mem (s : State) : s.initFailed.mem = s.mem.reallocate := rfl
@[simp] theorem State.initFailed_frameEvents (s : State) :
    s.initFailed.frameEvents = s.frameEvents := rfl
@[simp] theorem State.initFailed_port (s : State) : s.initFailed.port = s.port := rfl
@[simp] theorem State.initFailed_host (s : State) : s.initFailed.host = s.host := rfl
@[simp] theorem State.initFailed_surface (s : State) : s.initFailed.surface = s.surface := rfl
@[simp] theorem State.initFailed_queries (s : State) : s.initFailed.queries = s.queries := rfl
@[simp] theorem State.initFailed_responses (s : State) : s.initFailed.responses = s.responses := rfl

/-! ## The frame boundary -/

@[simp] theorem State.frameBoundary_strap (s : State) : s.frameBoundary.strap = s.strap := rfl
@[simp] theorem State.frameBoundary_mode (s : State) : s.frameBoundary.mode = s.mode := rfl
@[simp] theorem State.frameBoundary_hoff (s : State) : s.frameBoundary.hoff = s.hoff := rfl
@[simp] theorem State.frameBoundary_voff (s : State) : s.frameBoundary.voff = s.voff := rfl
@[simp] theorem State.frameBoundary_fullscreen (s : State) :
    s.frameBoundary.fullscreen = s.fullscreen := rfl
@[simp] theorem State.frameBoundary_fsActive (s : State) :
    s.frameBoundary.fsActive = s.fsActive := rfl
@[simp] theorem State.frameBoundary_prevline (s : State) :
    s.frameBoundary.prevline = s.prevline := rfl
@[simp] theorem State.frameBoundary_rmask (s : State) : s.frameBoundary.rmask = s.rmask := rfl
@[simp] theorem State.frameBoundary_gmask (s : State) : s.frameBoundary.gmask = s.gmask := rfl
@[simp] theorem State.frameBoundary_bmask (s : State) : s.frameBoundary.bmask = s.bmask := rfl
@[simp] theorem State.frameBoundary_bpp (s : State) : s.frameBoundary.bpp = s.bpp := rfl
@[simp] theorem State.frameBoundary_mem (s : State) :
    s.frameBoundary.mem = (s.mem.blankUnfilled s.height s.width).clearFilled s.height := rfl
@[simp] theorem State.frameBoundary_frameEvents (s : State) :
    s.frameBoundary.frameEvents = s.frameEvents + 1 := rfl
@[simp] theorem State.frameBoundary_port (s : State) : s.frameBoundary.port = s.port := rfl
@[simp] theorem State.frameBoundary_host (s : State) : s.frameBoundary.host = s.host := rfl
@[simp] theorem State.frameBoundary_surface (s : State) : s.frameBoundary.surface = s.surface := rfl
@[simp] theorem State.frameBoundary_queries (s : State) : s.frameBoundary.queries = s.queries := rfl
@[simp] theorem State.frameBoundary_responses (s : State) :
    s.frameBoundary.responses = s.responses := rfl

/-! ## A raster row -/

@[simp] theorem Memory.writeRow_draw (m : Memory) (r : Nat) (row : List Word) :
    (m.writeRow r row).draw = m.draw := rfl
@[simp] theorem Memory.writeRow_smp (m : Memory) (r : Nat) (row : List Word) :
    (m.writeRow r row).smp = m.smp := rfl
@[simp] theorem Memory.writeRow_pal (m : Memory) (r : Nat) (row : List Word) :
    (m.writeRow r row).pal = m.pal := rfl
@[simp] theorem Memory.writeRow_raster (m : Memory) (r : Nat) (row : List Word) :
    (m.writeRow r row).raster = Cells.put m.raster r row := rfl
@[simp] theorem Memory.writeRow_filled (m : Memory) (r : Nat) (row : List Word) :
    (m.writeRow r row).filled = m.filled := rfl
@[simp] theorem Memory.writeRow_dst (m : Memory) (r : Nat) (row : List Word) :
    (m.writeRow r row).dst = m.dst := rfl

/-! ## The palette -/

@[simp] theorem Memory.writePal_draw (m : Memory) (f : Nat → Word) :
    (m.writePal f).draw = m.draw := rfl
@[simp] theorem Memory.writePal_smp (m : Memory) (f : Nat → Word) :
    (m.writePal f).smp = m.smp := rfl
@[simp] theorem Memory.writePal_pal (m : Memory) (f : Nat → Word) :
    (m.writePal f).pal = Cells.rebuild palDepth (fun c => some (f c)) m.pal := rfl
@[simp] theorem Memory.writePal_raster (m : Memory) (f : Nat → Word) :
    (m.writePal f).raster = m.raster := rfl
@[simp] theorem Memory.writePal_filled (m : Memory) (f : Nat → Word) :
    (m.writePal f).filled = m.filled := rfl
@[simp] theorem Memory.writePal_dst (m : Memory) (f : Nat → Word) :
    (m.writePal f).dst = m.dst := rfl

/-! ## The destination -/

@[simp] theorem Memory.writeDst_draw (m : Memory) (n : Nat) (f : Nat → Word) :
    (m.writeDst n f).draw = m.draw := rfl
@[simp] theorem Memory.writeDst_smp (m : Memory) (n : Nat) (f : Nat → Word) :
    (m.writeDst n f).smp = m.smp := rfl
@[simp] theorem Memory.writeDst_pal (m : Memory) (n : Nat) (f : Nat → Word) :
    (m.writeDst n f).pal = m.pal := rfl
@[simp] theorem Memory.writeDst_raster (m : Memory) (n : Nat) (f : Nat → Word) :
    (m.writeDst n f).raster = m.raster := rfl
@[simp] theorem Memory.writeDst_filled (m : Memory) (n : Nat) (f : Nat → Word) :
    (m.writeDst n f).filled = m.filled := rfl
@[simp] theorem Memory.writeDst_dst (m : Memory) (n : Nat) (f : Nat → Word) :
    (m.writeDst n f).dst = Cells.rebuild n (fun i => some (f i)) m.dst := rfl

/-! ## A fresh draw -/

@[simp] theorem Memory.reallocate_draw (m : Memory) : m.reallocate.draw = m.draw + 1 := rfl
@[simp] theorem Memory.reallocate_smp (m : Memory) : m.reallocate.smp = m.smp := rfl
@[simp] theorem Memory.reallocate_pal (m : Memory) : m.reallocate.pal = [] := rfl
@[simp] theorem Memory.reallocate_raster (m : Memory) : m.reallocate.raster = [] := rfl
@[simp] theorem Memory.reallocate_filled (m : Memory) : m.reallocate.filled = [] := rfl
@[simp] theorem Memory.reallocate_dst (m : Memory) : m.reallocate.dst = m.dst := rfl

/-! ## One row flag -/

@[simp] theorem Memory.markFilled_draw (m : Memory) (r : Nat) :
    (m.markFilled r).draw = m.draw := rfl
@[simp] theorem Memory.markFilled_smp (m : Memory) (r : Nat) : (m.markFilled r).smp = m.smp := rfl
@[simp] theorem Memory.markFilled_pal (m : Memory) (r : Nat) : (m.markFilled r).pal = m.pal := rfl
@[simp] theorem Memory.markFilled_raster (m : Memory) (r : Nat) :
    (m.markFilled r).raster = m.raster := rfl
@[simp] theorem Memory.markFilled_filled (m : Memory) (r : Nat) :
    (m.markFilled r).filled = Cells.put m.filled r true := rfl
@[simp] theorem Memory.markFilled_dst (m : Memory) (r : Nat) : (m.markFilled r).dst = m.dst := rfl

/-! ## All row flags -/

@[simp] theorem Memory.clearFilled_draw (m : Memory) (n : Nat) :
    (m.clearFilled n).draw = m.draw := rfl
@[simp] theorem Memory.clearFilled_smp (m : Memory) (n : Nat) : (m.clearFilled n).smp = m.smp := rfl
@[simp] theorem Memory.clearFilled_pal (m : Memory) (n : Nat) : (m.clearFilled n).pal = m.pal := rfl
@[simp] theorem Memory.clearFilled_raster (m : Memory) (n : Nat) :
    (m.clearFilled n).raster = m.raster := rfl
@[simp] theorem Memory.clearFilled_filled (m : Memory) (n : Nat) :
    (m.clearFilled n).filled = Cells.rebuild n (fun _ => some false) m.filled := rfl
@[simp] theorem Memory.clearFilled_dst (m : Memory) (n : Nat) : (m.clearFilled n).dst = m.dst := rfl

/-! ## The blanking pass -/

@[simp] theorem Memory.blankUnfilled_draw (m : Memory) (n w : Nat) :
    (m.blankUnfilled n w).draw = m.draw := rfl
@[simp] theorem Memory.blankUnfilled_smp (m : Memory) (n w : Nat) :
    (m.blankUnfilled n w).smp = m.smp := rfl
@[simp] theorem Memory.blankUnfilled_pal (m : Memory) (n w : Nat) :
    (m.blankUnfilled n w).pal = m.pal := rfl
@[simp] theorem Memory.blankUnfilled_raster (m : Memory) (n w : Nat) :
    (m.blankUnfilled n w).raster = Cells.rebuild n (fun r => if m.readFilled r then Cells.find m.raster r
      else some (List.replicate w blank)) m.raster := rfl
@[simp] theorem Memory.blankUnfilled_filled (m : Memory) (n w : Nat) :
    (m.blankUnfilled n w).filled = m.filled := rfl
@[simp] theorem Memory.blankUnfilled_dst (m : Memory) (n w : Nat) :
    (m.blankUnfilled n w).dst = m.dst := rfl

/-! ## The geometry is the strap's -/

theorem State.width_eq (s : State) : s.width = Machine.width s.strap.debug := rfl
theorem State.height_eq (s : State) : s.height = Machine.height s.strap.debug := rfl
theorem State.debug_eq (s : State) : s.debug = s.strap.debug := rfl

end Sys2Proof.Machine
end

