-- ==== Sys2Proof/Laws/Memory.lean ====
section
/-! SUPPORT. What each memory operation makes a read of each space see, and that every memory operation
keeps the canonical form `Memory.wf`. -/

namespace Sys2Proof.Machine

/-! ## Reads after writes -/

theorem Memory.readRaster_writeRow (m : Memory) (r : Nat) (row : List Word) (r' c : Nat)
    (hc : c < row.length) :
    (m.writeRow r row).readRaster r' c = if r' = r then row[c] else m.readRaster r' c := by
  simp only [Memory.readRaster, Memory.writeRow_raster, Memory.writeRow_draw, Cells.find_put]
  split
  · simp [hc]
  · rfl

theorem Memory.readFilled_markFilled (m : Memory) (r r' : Nat) :
    (m.markFilled r).readFilled r' = if r' = r then true else m.readFilled r' := by
  simp only [Memory.readFilled, Memory.markFilled_filled, Memory.markFilled_draw, Cells.find_put]
  split <;> rfl

theorem Memory.readFilled_clearFilled (m : Memory) (n r : Nat) :
    (m.clearFilled n).readFilled r = if r < n then false else m.readFilled r := by
  simp only [Memory.readFilled, Memory.clearFilled_filled, Memory.clearFilled_draw, Cells.find_rebuild]
  split <;> rfl

theorem Memory.readPal_writePal (m : Memory) (f : Nat → Word) (c : Nat) :
    (m.writePal f).readPal c = if c < palDepth then f c else m.readPal c := by
  simp only [Memory.readPal, Memory.writePal_pal, Memory.writePal_draw, Cells.find_rebuild]
  split <;> rfl

theorem Memory.readDst_writeDst (m : Memory) (n : Nat) (f : Nat → Word) (i : Nat) :
    (m.writeDst n f).readDst i = if i < n then f i else m.readDst i := by
  simp only [Memory.readDst, Memory.writeDst_dst, Cells.find_rebuild]
  split <;> rfl

theorem Memory.readRaster_blankUnfilled (m : Memory) (n w r c : Nat) (hc : c < w) :
    (m.blankUnfilled n w).readRaster r c
      = if r < n ∧ m.readFilled r = false then blank else m.readRaster r c := by
  simp only [Memory.readRaster, Memory.blankUnfilled_raster, Memory.blankUnfilled_draw,
    Cells.find_rebuild]
  by_cases hr : r < n <;> cases hf : m.readFilled r <;> simp [hr, hc]

/-! ## Reads an operation on another space does not touch: a read looks at its own space and the draw -/

theorem Memory.readSmp_congr {m m' : Memory} (h : m.smp = m'.smp) (k : Nat) :
    m.readSmp k = m'.readSmp k := by rw [Memory.readSmp, Memory.readSmp, h]

theorem Memory.readDst_congr {m m' : Memory} (h : m.dst = m'.dst) (i : Nat) :
    m.readDst i = m'.readDst i := by rw [Memory.readDst, Memory.readDst, h]

theorem Memory.readPal_congr {m m' : Memory} (h : m.pal = m'.pal) (hd : m.draw = m'.draw) (c : Nat) :
    m.readPal c = m'.readPal c := by rw [Memory.readPal, Memory.readPal, h, hd]

theorem Memory.readFilled_congr {m m' : Memory} (h : m.filled = m'.filled) (hd : m.draw = m'.draw)
    (r : Nat) : m.readFilled r = m'.readFilled r := by
  rw [Memory.readFilled, Memory.readFilled, h, hd]

theorem Memory.readRaster_congr {m m' : Memory} (h : m.raster = m'.raster) (hd : m.draw = m'.draw)
    (r c : Nat) : m.readRaster r c = m'.readRaster r c := by
  rw [Memory.readRaster, Memory.readRaster, h, hd]

theorem Memory.lookup_congr {m m' : Memory} (hs : m.smp = m'.smp) (hp : m.pal = m'.pal)
    (hd : m.draw = m'.draw) : m.lookup = m'.lookup := by
  funext k
  rw [Memory.lookup, Memory.lookup, Memory.readSmp_congr hs, Memory.readPal_congr hp hd]

/-! ## PALBUILD and the row pair as a whole -/

@[simp] theorem Memory.buildPalette_draw (m : Memory) (r g b : Word) :
    (m.buildPalette r g b).draw = m.draw := by unfold Memory.buildPalette; split <;> rfl
@[simp] theorem Memory.buildPalette_smp (m : Memory) (r g b : Word) :
    (m.buildPalette r g b).smp = m.smp := by unfold Memory.buildPalette; split <;> rfl
@[simp] theorem Memory.buildPalette_raster (m : Memory) (r g b : Word) :
    (m.buildPalette r g b).raster = m.raster := by unfold Memory.buildPalette; split <;> rfl
@[simp] theorem Memory.buildPalette_filled (m : Memory) (r g b : Word) :
    (m.buildPalette r g b).filled = m.filled := by unfold Memory.buildPalette; split <;> rfl
@[simp] theorem Memory.buildPalette_dst (m : Memory) (r g b : Word) :
    (m.buildPalette r g b).dst = m.dst := by unfold Memory.buildPalette; split <;> rfl

/-- PALBUILD lists every entry of a well-formed format (rule R92). -/
theorem Memory.find_buildPalette (m : Memory) {r g b : Word} (h : wellFormedFormat r g b = true)
    {c : Nat} (hc : c < palDepth) :
    Cells.find (m.buildPalette r g b).pal c = some (paletteEntry r g b (BitVec.ofNat 8 c)) := by
  rw [Memory.buildPalette, if_pos h, Memory.writePal_pal, Cells.find_rebuild, if_pos hc]

@[simp] theorem Memory.writePair_draw (m : Memory) (v : Word) (rows : List Word × List Word) :
    (m.writePair v rows).draw = m.draw := rfl
@[simp] theorem Memory.writePair_smp (m : Memory) (v : Word) (rows : List Word × List Word) :
    (m.writePair v rows).smp = m.smp := rfl
@[simp] theorem Memory.writePair_pal (m : Memory) (v : Word) (rows : List Word × List Word) :
    (m.writePair v rows).pal = m.pal := rfl
@[simp] theorem Memory.writePair_dst (m : Memory) (v : Word) (rows : List Word × List Word) :
    (m.writePair v rows).dst = m.dst := rfl

theorem pairedRow_ne (v : Word) : (pairedRow v).toNat ≠ v.toNat := by
  intro h
  have h' : v ^^^ 1 = v := BitVec.eq_of_toNat_eq h
  have h1 : (v ^^^ 1) ^^^ v = 0 := by rw [h', BitVec.xor_self]; rfl
  rw [BitVec.xor_comm v, BitVec.xor_assoc, BitVec.xor_self, BitVec.xor_zero] at h1
  exact absurd h1 (by decide)

/-- The row pair: the paired row reads as the full row, row `voff` as the dimmed one, every other row
as before (rule R129 with `FULL_ROW = PAIRED`). -/
theorem Memory.readRaster_writePair (m : Memory) (v : Word) (rows : List Word × List Word)
    (r c : Nat) (h1 : c < rows.1.length) (h2 : c < rows.2.length) :
    (m.writePair v rows).readRaster r c
      = if r = (pairedRow v).toNat then rows.1[c]
        else if r = v.toNat then rows.2[c] else m.readRaster r c := by
  show ((m.writeRow (pairedRow v).toNat rows.1).writeRow v.toNat rows.2).readRaster r c = _
  rw [Memory.readRaster_writeRow _ _ _ _ _ h2, Memory.readRaster_writeRow _ _ _ _ _ h1]
  have := pairedRow_ne v
  split <;> split <;> first | rfl | omega

theorem Memory.readFilled_writePair (m : Memory) (v : Word) (rows : List Word × List Word) (r : Nat) :
    (m.writePair v rows).readFilled r
      = if r = v.toNat ∨ r = (pairedRow v).toNat then true else m.readFilled r := by
  rw [Memory.writePair, Memory.readFilled_markFilled, Memory.readFilled_markFilled]
  show (if r = (pairedRow v).toNat then true else if r = v.toNat then true else m.readFilled r) = _
  split <;> split <;> simp_all

/-! ## The canonical form is kept -/

theorem Memory.wf_empty (d : Bool) (n : Nat) :
    Memory.wf d { draw := n, smp := [], pal := [], raster := [], filled := [], dst := [] } := by
  simp [Memory.wf, Cells.wf]

theorem Memory.wf_reallocate {d : Bool} {m : Memory} (h : m.wf d) : m.reallocate.wf d :=
  ⟨h.1, Cells.wf_nil _, ⟨Cells.wf_nil _, by simp⟩, Cells.wf_nil _, h.2.2.2.2⟩

theorem Memory.wf_writePal {d : Bool} {m : Memory} (f : Nat → Word) (h : m.wf d) :
    (m.writePal f).wf d :=
  ⟨h.1, Cells.rebuild_wf _ h.2.1 le_rfl, h.2.2.1, h.2.2.2.1, h.2.2.2.2⟩

theorem Memory.wf_buildPalette {d : Bool} {m : Memory} (r g b : Word) (h : m.wf d) :
    (m.buildPalette r g b).wf d := by
  unfold Memory.buildPalette
  split
  · exact Memory.wf_writePal _ h
  · exact h

theorem Memory.wf_writeRow {d : Bool} {m : Memory} {r : Nat} {row : List Word} (h : m.wf d)
    (hr : r < Machine.height d) (hw : row.length = Machine.width d) : (m.writeRow r row).wf d := by
  refine ⟨h.1, h.2.1, ⟨Cells.put_wf _ h.2.2.1.1 hr, fun e he => ?_⟩, h.2.2.2.1, h.2.2.2.2⟩
  rcases Cells.mem_put he with rfl | he
  · exact hw
  · exact h.2.2.1.2 e he

theorem Memory.wf_markFilled {d : Bool} {m : Memory} {r : Nat} (h : m.wf d)
    (hr : r < Machine.height d) : (m.markFilled r).wf d :=
  ⟨h.1, h.2.1, h.2.2.1, Cells.put_wf _ h.2.2.2.1 hr, h.2.2.2.2⟩

theorem Memory.wf_clearFilled {d : Bool} {m : Memory} (h : m.wf d) :
    (m.clearFilled (Machine.height d)).wf d :=
  ⟨h.1, h.2.1, h.2.2.1, Cells.rebuild_wf _ h.2.2.2.1 le_rfl, h.2.2.2.2⟩

theorem Cells.find_mem {α : Type} {m : Cells α} {i : Nat} {x : α} (h : Cells.find m i = some x) :
    (i, x) ∈ m := by
  induction m with
  | nil => simp at h
  | cons e m ih =>
    obtain ⟨k, y⟩ := e
    rw [Cells.find_cons] at h
    split at h
    · rename_i hk; subst hk; simp_all
    · exact List.mem_cons_of_mem _ (ih h)

theorem Memory.wf_blankUnfilled {d : Bool} {m : Memory} (h : m.wf d) :
    (m.blankUnfilled (Machine.height d) (Machine.width d)).wf d := by
  refine ⟨h.1, h.2.1, ⟨Cells.rebuild_wf _ h.2.2.1.1 le_rfl, fun e he => ?_⟩, h.2.2.2.1, h.2.2.2.2⟩
  rcases Cells.mem_rebuild he with ⟨-, hx⟩ | he
  · split at hx
    · exact h.2.2.1.2 (e.1, e.2) (Cells.find_mem hx)
    · rw [← Option.some.inj hx, List.length_replicate]
  · exact h.2.2.1.2 e he

theorem Memory.wf_writeDst {d : Bool} {m : Memory} (f : Nat → Word) (h : m.wf d) :
    (m.writeDst (Machine.width d) f).wf d :=
  ⟨h.1, h.2.1, h.2.2.1, h.2.2.2.1, Cells.rebuild_wf _ h.2.2.2.2 le_rfl⟩

theorem Memory.wf_writePair {d : Bool} {m : Memory} {v : Word} {rows : List Word × List Word}
    (h : m.wf d) (hv : v.toNat < Machine.height d) (hp : (pairedRow v).toNat < Machine.height d)
    (h1 : rows.1.length = Machine.width d) (h2 : rows.2.length = Machine.width d) :
    (m.writePair v rows).wf d :=
  Memory.wf_markFilled
    (Memory.wf_markFilled (Memory.wf_writeRow (Memory.wf_writeRow h hp h1) hv h2) hv) hp

end Sys2Proof.Machine
end

