-- ==== Sys2Proof/Laws/Frame.lean ====
section
/-! SUPPORT. What the shared parts of INIT and RENDERLINE do, said once: initialisation, the frame
boundary, the placement of a scanline (spec/42_frame_assembler.md rules R123 to R130). -/

namespace Sys2Proof.Machine

/-! ## Initialisation (rule R123) -/

/-- INITIALISE ends in one of two states. -/
theorem State.initialise_cases (s : State) :
    (s.surface.usable = true ∧ s.initialise = s.query.initialised.respond 1)
      ∨ (s.surface.usable = false ∧ s.initialise = s.query.initFailed.respond 0) := by
  unfold State.initialise
  cases h : s.surface.usable
  · exact .inr ⟨rfl, rfl⟩
  · exact .inl ⟨rfl, rfl⟩

theorem State.initialised_filled (s : State) {r : Nat} (hr : r < s.height) :
    Cells.find s.initialised.mem.filled r = some false := by
  rw [State.initialised_mem, Memory.clearFilled_filled, Cells.find_rebuild, if_pos hr]

theorem State.initialised_palette (s : State)
    (h : wellFormedFormat s.surface.rmask s.surface.gmask s.surface.bmask = true) {c : Nat}
    (hc : c < palDepth) :
    Cells.find s.initialised.mem.pal c
      = some (paletteEntry s.surface.rmask s.surface.gmask s.surface.bmask (BitVec.ofNat 8 c)) := by
  rw [State.initialised_mem, Memory.clearFilled_pal, Memory.find_buildPalette _ h hc]

theorem State.initialised_memWf (s : State) (h : s.mem.wf s.debug) :
    s.initialised.mem.wf s.debug := by
  rw [State.initialised_mem]
  exact Memory.wf_clearFilled (Memory.wf_buildPalette _ _ _ (Memory.wf_reallocate h))

/-! ## Row numbers (rules R128 and R129) -/

theorem pairedRow_toNat (v : Word) :
    (pairedRow v).toNat = if v.toNat % 2 = 0 then v.toNat + 1 else v.toNat - 1 := by
  rw [pairedRow, BitVec.toNat_xor]
  show v.toNat ^^^ 1 = _
  have hd : (v.toNat ^^^ 1) / 2 = v.toNat / 2 := by rw [Nat.xor_div_two]; simp
  have hm : (v.toNat ^^^ 1) % 2 = (v.toNat + 1) % 2 := by rw [Nat.xor_mod_two_eq]
  split <;> omega

/-- `HEIGHT` is even, so the paired row is in the raster whenever the row is (rule R129). -/
theorem pairedRow_inRaster (s : State) (v : Word) (h : inRaster s v = true) :
    inRaster s (pairedRow v) = true := by
  have hh : s.height % 2 = 0 := by
    rw [State.height_eq]; cases s.strap.debug <;> rfl
  simp only [inRaster, decide_eq_true_eq] at h ⊢
  rw [pairedRow_toNat]
  split <;> omega

/-! ## The frame boundary (rule R127) -/

/-- A row whose flag is clear reads as `BLANK`, every other row as before. -/
theorem State.readRaster_frameBoundary (s : State) (r c : Nat) (hc : c < s.width) :
    s.frameBoundary.mem.readRaster r c
      = if r < s.height ∧ s.mem.readFilled r = false then blank else s.mem.readRaster r c := by
  rw [State.frameBoundary_mem,
    Memory.readRaster_congr (Memory.clearFilled_raster _ _) (Memory.clearFilled_draw _ _),
    Memory.readRaster_blankUnfilled _ _ _ _ _ hc]

theorem State.readFilled_frameBoundary (s : State) (r : Nat) :
    s.frameBoundary.mem.readFilled r = if r < s.height then false else s.mem.readFilled r := by
  rw [State.frameBoundary_mem, Memory.readFilled_clearFilled,
    Memory.readFilled_congr (Memory.blankUnfilled_filled _ _ _) (Memory.blankUnfilled_draw _ _ _)]

/-- Step 1 is the boundary or nothing. -/
theorem State.detectFrame_cases (s : State) (l : Word) :
    (newFrame s l = true ∧ s.detectFrame l = s.frameBoundary)
      ∨ (newFrame s l = false ∧ s.detectFrame l = s) := by
  unfold State.detectFrame
  cases h : newFrame s l
  · exact .inr ⟨rfl, rfl⟩
  · exact .inl ⟨rfl, rfl⟩

/-! ## The placement of a scanline (rules R128 and R129) -/

/-- The row pair of a scanline. -/
def State.pairMem (s : State) (l : Word) : Memory :=
  s.mem.writePair (rowOperand s l) (resample s.mem.lookup s.hoff s.width)

/-- Step 2 writes the pair or nothing. -/
theorem State.placeLine_cases (s : State) (l : Word) :
    (inRaster s (rowOperand s l) = true ∧ s.placeLine l = { s with mem := s.pairMem l })
      ∨ (inRaster s (rowOperand s l) = false ∧ s.placeLine l = s) := by
  unfold State.placeLine
  cases h : inRaster s (rowOperand s l)
  · exact .inr ⟨rfl, rfl⟩
  · exact .inl ⟨rfl, rfl⟩

theorem State.readRaster_pairMem (s : State) (l : Word) (r c : Nat) (hc : c < s.width) :
    (s.pairMem l).readRaster r c
      = if r = (pairedRow (rowOperand s l)).toNat then fullPixel s.mem.lookup s.hoff c
        else if r = (rowOperand s l).toNat then dim (fullPixel s.mem.lookup s.hoff c)
        else s.mem.readRaster r c := by
  have hc' : c < pixelCount s.width := by rw [State.width_eq, pixelCount_width]; exact hc
  rw [State.pairMem, Memory.readRaster_writePair _ _ _ _ _ (by simpa using hc') (by simpa using hc'),
    resample_fst_get, resample_snd_get]

theorem State.readFilled_pairMem (s : State) (l : Word) (r : Nat) :
    (s.pairMem l).readFilled r
      = if r = (rowOperand s l).toNat ∨ r = (pairedRow (rowOperand s l)).toNat then true
        else s.mem.readFilled r :=
  Memory.readFilled_writePair _ _ _ _

theorem State.pairMem_wf (s : State) (l : Word) (h : s.mem.wf s.debug)
    (hr : inRaster s (rowOperand s l) = true) : (s.pairMem l).wf s.debug := by
  have hp := pairedRow_inRaster s _ hr
  simp only [inRaster, decide_eq_true_eq] at hr hp
  refine Memory.wf_writePair h hr hp ?_ ?_ <;> simp [State.width_eq, State.debug_eq, pixelCount_width]

/-! ## RENDERLINE as a whole: fields no step of it writes -/

/-- The state of an Initialized RENDERLINE before its response. -/
def State.rendered (s : State) (l : Word) : State :=
  ((s.detectFrame l).placeLine l).recordLine l

/-- RENDERLINE writes only its line number, the event count and the block's raster and flags. -/
theorem State.rendered_eq (s : State) (l : Word) :
    s.rendered l = { s with
      prevline := l
      frameEvents := (s.rendered l).frameEvents
      mem := { s.mem with raster := (s.rendered l).mem.raster, filled := (s.rendered l).mem.filled } } := by
  rcases s.detectFrame_cases l with ⟨-, h1⟩ | ⟨-, h1⟩ <;>
    rcases (s.detectFrame l).placeLine_cases l with ⟨-, h2⟩ | ⟨-, h2⟩ <;>
      (rw [State.rendered, h2, h1]; rfl)

/-- One event exactly at a frame boundary (rule R126). -/
theorem State.rendered_frameEvents (s : State) (l : Word) :
    (s.rendered l).frameEvents = if newFrame s l then s.frameEvents + 1 else s.frameEvents := by
  have h2 : (s.rendered l).frameEvents = (s.detectFrame l).frameEvents := by
    rcases (s.detectFrame l).placeLine_cases l with ⟨-, h⟩ | ⟨-, h⟩ <;> (rw [State.rendered, h]; rfl)
  rw [h2]
  rcases s.detectFrame_cases l with ⟨h, e⟩ | ⟨h, e⟩ <;> simp [h, e]

theorem State.rendered_memWf (s : State) (l : Word) (h : s.mem.wf s.debug) :
    (s.rendered l).mem.wf s.debug := by
  have hd : (s.detectFrame l).mem.wf s.debug := by
    rcases s.detectFrame_cases l with ⟨-, e⟩ | ⟨-, e⟩ <;> rw [e]
    · rw [State.frameBoundary_mem]
      exact Memory.wf_clearFilled (Memory.wf_blankUnfilled h)
    · exact h
  have hs : (s.detectFrame l).debug = s.debug := by
    rcases s.detectFrame_cases l with ⟨-, e⟩ | ⟨-, e⟩ <;> rw [e]; rfl
  rcases (s.detectFrame l).placeLine_cases l with ⟨hr, e⟩ | ⟨-, e⟩
  · rw [State.rendered, e]
    have := State.pairMem_wf (s.detectFrame l) l (hs ▸ hd) hr
    rwa [hs] at this
  · rw [State.rendered, e]; exact hd

end Sys2Proof.Machine
end

