-- ==== Sys2Proof/Laws/PerInstr.lean ====
section
/-! SUPPORT. One lemma per constructor of Instr, by family. PacketLength: the packet the encoder makes
has the length the decoder reads from its header (spec/30_encoding.md rules R71, R73 and R81). -/

namespace Sys2Proof.Laws.PacketLength

/-- The family's statement about one command as syntax. -/
def Statement (i : Instr) : Prop := (encode i).length = packetLength ((encode i).headD 0)

/-- A packet of a legal header with the operands its `OP` takes has the statement's length. -/
theorem statement_of {i : Instr} {ops : List Word} (op pid : BitVec 4) (d : Bool)
    (he : encode i = header op pid d :: ops) (hl : ops.length = operandCount op) (hop : op.toNat < 6)
    (hp : pid = 0 ∨ op = 3 ∨ op = 4) (hd : d = false ∨ op = 3) : Statement i := by
  have h : headerReject (header op pid d) = none := by
    rw [headerReject_none, headerOp_header, headerPid_header, headerDef_header, headerRsv_header]
    exact ⟨hop, rfl, hp, hd⟩
  rw [Statement, he, List.headD_cons, packetLength, if_pos h, headerOp_header, List.length_cons, hl,
    Nat.add_comm]

/-- The same for a SETPROP packet. -/
theorem statement_of_setprop {i : Instr} (pid : BitVec 4) (d : Bool) (v : Word)
    (he : encode i = [header 3 pid d, v]) : Statement i :=
  statement_of 3 pid d he rfl (by decide) (.inr (.inl rfl)) (.inr rfl)

/-- The same for a GETPROP packet. -/
theorem statement_of_getprop {i : Instr} (pid : BitVec 4) (he : encode i = [header 4 pid false]) :
    Statement i :=
  statement_of 4 pid false he rfl (by decide) (.inr (.inr rfl)) (.inl rfl)

theorem tick : Statement .tick := statement_of 0 0 false rfl rfl (by decide) (.inl rfl) (.inl rfl)
theorem init : Statement .init := statement_of 1 0 false rfl rfl (by decide) (.inl rfl) (.inl rfl)
theorem renderline (a l h v : Word) : Statement (.renderline a l h v) :=
  statement_of 2 0 false rfl rfl (by decide) (.inl rfl) (.inl rfl)
theorem setpropHoff (d : Bool) (v : Word) : Statement (.setpropHoff d v) :=
  statement_of_setprop 0 d v rfl
theorem setpropVoff (d : Bool) (v : Word) : Statement (.setpropVoff d v) :=
  statement_of_setprop 1 d v rfl
theorem setpropFullscreen (d : Bool) (v : Word) : Statement (.setpropFullscreen d v) :=
  statement_of_setprop 2 d v rfl
theorem setpropWidth (d : Bool) (v : Word) : Statement (.setpropWidth d v) :=
  statement_of_setprop 3 d v rfl
theorem setpropHeight (d : Bool) (v : Word) : Statement (.setpropHeight d v) :=
  statement_of_setprop 4 d v rfl
theorem setpropDebug (d : Bool) (v : Word) : Statement (.setpropDebug d v) :=
  statement_of_setprop 5 d v rfl
theorem setpropUnknown (pid : BitVec 4) (d : Bool) (v : Word) : Statement (.setpropUnknown pid d v) :=
  statement_of_setprop pid d v rfl
theorem getpropHoff : Statement .getpropHoff := statement_of_getprop 0 rfl
theorem getpropVoff : Statement .getpropVoff := statement_of_getprop 1 rfl
theorem getpropFullscreen : Statement .getpropFullscreen := statement_of_getprop 2 rfl
theorem getpropWidth : Statement .getpropWidth := statement_of_getprop 3 rfl
theorem getpropHeight : Statement .getpropHeight := statement_of_getprop 4 rfl
theorem getpropDebug : Statement .getpropDebug := statement_of_getprop 5 rfl
theorem getpropUnknown (pid : BitVec 4) : Statement (.getpropUnknown pid) :=
  statement_of_getprop pid rfl
theorem extractrow (r : Word) : Statement (.extractrow r) :=
  statement_of 5 0 false rfl rfl (by decide) (.inl rfl) (.inl rfl)

end Sys2Proof.Laws.PacketLength
end

