-- ==== Sys2Proof/Laws/Step.lean ====
section
/-! SUPPORT. What one step can do, said once, and what each action of the host changes. -/

namespace Sys2Proof.Machine

/-- A step that goes on executed a command, answered an illegal header, or let the host act. -/
theorem step_cases {s s' : State} (h : step s = .next s') :
    (∃ i rest, fetch s.port = .command i rest ∧ exec i { s with port := rest } = .next s')
      ∨ (∃ why rest, fetch s.port = .illegal why rest
          ∧ s' = State.answerIllegal { s with port := rest })
      ∨ (fetch s.port = .incomplete
          ∧ ∃ a later, s.host = a :: later ∧ s' = State.applyHost a { s with host := later }) := by
  unfold step at h
  cases hf : fetch s.port with
  | command i rest => rw [hf] at h; exact .inl ⟨i, rest, rfl, h⟩
  | illegal why rest =>
    rw [hf] at h
    exact .inr (.inl ⟨why, rest, rfl, by injection h with h; exact h.symm⟩)
  | incomplete =>
    rw [hf] at h
    refine .inr (.inr ⟨rfl, ?_⟩)
    dsimp only [State.hostTurn] at h
    cases hh : s.host with
    | nil => rw [hh] at h; dsimp only at h; split at h <;> cases h
    | cons a later => rw [hh] at h; injection h with h; exact ⟨a, later, rfl, h.symm⟩

/-- A hardware reset keeps the strap and the canonical form (rule R210). -/
@[simp] theorem State.hardReset_strap (s : State) : s.hardReset.strap = s.strap := rfl
@[simp] theorem State.hardReset_mem (s : State) : s.hardReset.mem = s.mem.reallocate := rfl
@[simp] theorem State.hardReset_mode (s : State) : s.hardReset.mode = .uninitialized := rfl
@[simp] theorem State.hardReset_hoff (s : State) : s.hardReset.hoff = s.strap.hoffReset := rfl
@[simp] theorem State.hardReset_voff (s : State) : s.hardReset.voff = s.strap.voffReset := rfl
@[simp] theorem State.hardReset_frameEvents (s : State) : s.hardReset.frameEvents = 0 := rfl

/-- No action of the host or the environment changes the strap (rule R38 (d)). -/
theorem State.applyHost_strap (a : HostAction) (s : State) : (State.applyHost a s).strap = s.strap := by
  cases a <;> dsimp only [State.applyHost]
  case dstWrite i w => split <;> rfl
  case hardReset => rfl

/-- Every action keeps the canonical form of the memories. -/
theorem State.applyHost_memWf (a : HostAction) (s : State) (h : s.mem.wf s.debug) :
    (State.applyHost a s).mem.wf s.debug := by
  cases a with
  | present ws => exact h
  | smpFill c =>
    dsimp only [State.applyHost]
    exact ⟨Cells.rebuild_wf _ h.1 le_rfl, h.2⟩
  | smpWrite i c => exact ⟨Cells.put_wf _ h.1 i.isLt, h.2⟩
  | dstFill w => exact Memory.wf_writeDst _ h
  | dstWrite i w =>
    simp only [State.applyHost]
    split
    · rename_i hi
      exact ⟨h.1, h.2.1, h.2.2.1, h.2.2.2.1, Cells.put_wf _ h.2.2.2.2 hi⟩
    · exact h
  | surface a => exact h
  | hardReset => exact Memory.wf_reallocate h

/-- Only a hardware reset touches more than the host's own memories, the port and the answer. -/
theorem State.applyHost_block (a : HostAction) (s : State) (ha : a ≠ .hardReset) :
    (State.applyHost a s) = { s with
      port := (State.applyHost a s).port
      surface := (State.applyHost a s).surface
      mem := { s.mem with smp := (State.applyHost a s).mem.smp, dst := (State.applyHost a s).mem.dst } } := by
  cases a <;> dsimp only [State.applyHost]
  case dstWrite i w => split <;> rfl
  case dstFill w => rfl
  case hardReset => exact absurd rfl ha

end Sys2Proof.Machine
end

