-- ==== Sys2Proof/Laws/Run.lean ====
section
/-! SUPPORT. Runs: a command neither reads nor writes the port, what a run of one more step is, and how a
response extends the sequence of responses (spec/70_reset_and_hazards.md rule R224). -/

namespace Sys2Proof.Machine

/-- A command neither reads nor writes the port: it commutes with a change of the port. -/
theorem exec_port (i : Instr) (s : State) (p : List Word) :
    ∃ t r, exec i s = .next t ∧ exec i { s with port := p } = .next { t with port := p }
      ∧ t.port = s.port ∧ t.host = s.host ∧ t.responses = r :: s.responses := by
  have respond : ∀ (f : State) (v : Word), f.port = s.port → f.host = s.host →
      f.responses = s.responses → exec i s = .next (f.respond v) →
      exec i { s with port := p } = .next (State.respond { f with port := p } v) →
      ∃ t r, exec i s = .next t ∧ exec i { s with port := p } = .next { t with port := p }
        ∧ t.port = s.port ∧ t.host = s.host ∧ t.responses = r :: s.responses := by
    intro f v h1 h2 h3 h4 h5
    exact ⟨_, { rsp := v, ill := false }, h4, h5, h1, h2, by rw [← h3]; rfl⟩
  have initialise : ∀ g : State, g.port = s.port → g.host = s.host → g.responses = s.responses →
      exec i s = .next g.initialise →
      exec i { s with port := p } = .next (State.initialise { g with port := p }) →
      ∃ t r, exec i s = .next t ∧ exec i { s with port := p } = .next { t with port := p }
        ∧ t.port = s.port ∧ t.host = s.host ∧ t.responses = r :: s.responses := by
    intro g h1 h2 h3 h4 h5
    cases h : g.surface.usable
    · have e : ∀ q : State, q.surface = g.surface → q.initialise = q.query.initFailed.respond 0 := by
        intro q hq; rw [State.initialise, hq, if_neg (by rw [h]; decide)]
      rw [e g rfl] at h4
      rw [e { g with port := p } rfl] at h5
      exact respond g.query.initFailed 0 h1 h2 h3 h4 h5
    · have e : ∀ q : State, q.surface = g.surface → q.initialise = q.query.initialised.respond 1 := by
        intro q hq; rw [State.initialise, hq, if_pos h]
      rw [e g rfl] at h4
      rw [e { g with port := p } rfl] at h5
      exact respond g.query.initialised 1 h1 h2 h3 h4 h5
  cases i with
  | init => exact initialise s rfl rfl rfl rfl rfl
  | setpropFullscreen d v =>
    by_cases h : d = false ∧ s.mode = .initialized
    · exact initialise (s.storeFullscreen v) rfl rfl rfl
        (by dsimp only [exec, execSetpropFullscreen]; rw [if_pos h])
        (by dsimp only [exec, execSetpropFullscreen]; rw [if_pos h]; rfl)
    · exact respond (s.storeFullscreen v) 1 rfl rfl rfl
        (by dsimp only [exec, execSetpropFullscreen]; rw [if_neg h])
        (by dsimp only [exec, execSetpropFullscreen]; rw [if_neg h]; rfl)
  | renderline a l h v =>
    by_cases hm : s.mode = .uninitialized
    · exact respond s 0 rfl rfl rfl (by dsimp only [exec, execRenderline]; rw [if_pos hm])
        (by dsimp only [exec, execRenderline]; rw [if_pos hm])
    · have e : ({ s with port := p } : State).rendered l = { s.rendered l with port := p } := by
        have hn : newFrame { s with port := p } l = newFrame s l := rfl
        rw [State.rendered, State.rendered, State.detectFrame, State.detectFrame, hn]
        split <;> (rw [State.placeLine, State.placeLine]; split <;> rename_i h <;> split <;> rename_i h' <;>
          first | rfl | exact absurd h h' | exact absurd h' h)
      refine respond (s.rendered l) 0 ?_ ?_ ?_ ?_ ?_
      · rw [State.rendered_eq]
      · rw [State.rendered_eq]
      · rw [State.rendered_eq]
      · dsimp only [exec, execRenderline]; rw [if_neg hm]; rfl
      · rw [← e]; dsimp only [exec, execRenderline]; rw [if_neg hm]; rfl
  | extractrow r =>
    by_cases h : s.extractable r = true
    · exact respond { s with
          mem := s.mem.writeDst s.width (fun i => s.remap (s.mem.readRaster r.toNat i)) } 0 rfl rfl rfl
        (by dsimp only [exec, execExtractrow]; rw [if_pos h])
        (by dsimp only [exec, execExtractrow]; rw [if_pos (show State.extractable { s with port := p } r
              = true from h)]; rfl)
    · exact respond s 0 rfl rfl rfl (by dsimp only [exec, execExtractrow]; rw [if_neg h])
        (by dsimp only [exec, execExtractrow]; rw [if_neg (show ¬ State.extractable { s with port := p } r
              = true from h)])
  | setpropHoff d v => exact respond { s with hoff := hoffOperand s.debug v } 1 rfl rfl rfl rfl rfl
  | setpropVoff d v => exact respond { s with voff := voffOperand s.debug v } 1 rfl rfl rfl rfl rfl
  | tick => exact respond s 0 rfl rfl rfl rfl rfl
  | setpropWidth d v => exact respond s 1 rfl rfl rfl rfl rfl
  | setpropHeight d v => exact respond s 1 rfl rfl rfl rfl rfl
  | setpropDebug d v => exact respond s 1 rfl rfl rfl rfl rfl
  | setpropUnknown pid d v => exact respond s 1 rfl rfl rfl rfl rfl
  | getpropHoff => exact respond s s.hoff rfl rfl rfl rfl rfl
  | getpropVoff => exact respond s s.voff rfl rfl rfl rfl rfl
  | getpropFullscreen => exact respond s (flagWord s.fullscreen) rfl rfl rfl rfl rfl
  | getpropWidth => exact respond s (BitVec.ofNat 32 s.width) rfl rfl rfl rfl rfl
  | getpropHeight => exact respond s (BitVec.ofNat 32 s.height) rfl rfl rfl rfl rfl
  | getpropDebug => exact respond s (flagWord s.debug) rfl rfl rfl rfl rfl
  | getpropUnknown pid => exact respond s 0 rfl rfl rfl rfl rfl

@[simp] theorem lastState_zero (s : State) : lastState 0 s = s := rfl

theorem lastState_next {s t : State} (h : step s = .next t) (n : Nat) :
    lastState (n + 1) s = lastState n t := by rw [lastState, h]

@[simp] theorem extractedRows_zero (s : State) : extractedRows 0 s = [] := rfl

theorem extractedRows_next {s t : State} (h : step s = .next t) (n : Nat) :
    extractedRows (n + 1) s
      = if s.extracts then t.dstContents :: extractedRows n t else extractedRows n t := by
  rw [extractedRows, h]

/-- A command on the port, seen by the observation of rows. -/
theorem State.extracts_of_fetch {s : State} {i : Instr} {rest : List Word}
    (h : fetch s.port = .command i rest) : s.extracts = i.extracts := by rw [State.extracts, h]

@[simp] theorem responsesSince_self (s : State) : responsesSince s s = [] := by simp [responsesSince]

/-- Responses given on top of those of `s` are the responses since `s`. -/
theorem responsesSince_append {s t : State} {l : List Response} (h : t.responses = l ++ s.responses) :
    responsesSince s t = l.reverse := by simp [responsesSince, h]

end Sys2Proof.Machine
end

