-- ==== Sys2Proof/Tests/Slice0.lean ====
section
/-! SUPPORT. Tests with the values of spec/95_test_vectors.md and spec/30_encoding.md, and a witness for
the hypotheses of every statement that has some. -/

namespace Sys2Proof.Tests

open Sys2Proof.Machine

/-! ## WellFormed: an ill-formed term for each check -/

theorem test_illformed_setprop_unknown :
    (Instr.setpropUnknown 5 false 0).wellFormed = false
      ∧ (Instr.setpropUnknown 6 true 0).wellFormed = true := by decide

theorem test_illformed_getprop_unknown :
    (Instr.getpropUnknown 0).wellFormed = false ∧ (Instr.getpropUnknown 15).wellFormed = true := by
  decide

/-! ## Decoding: every constructor from a word written from rules R72 to R78 -/

theorem test_decode_tick : decode [0x00000000] = .ok (.tick, []) := rfl
theorem test_decode_init : decode [0x00000001] = .ok (.init, []) := rfl
theorem test_decode_renderline :
    decode [0x00000002, 0x0000071C, 0x00000015, 3, 0xFFFFFFFF] = .ok (.renderline 1820 21 3 (-1), []) :=
  rfl
theorem test_decode_setpropHoff : decode [0x00000103, 0xFFFE7960, 7]
    = .ok (.setpropHoff true (BitVec.ofInt 32 (-100000)), [7]) := rfl
theorem test_decode_setpropVoff : decode [0x00000013, 0x4E] = .ok (.setpropVoff false 78, []) := rfl
theorem test_decode_setpropFullscreen :
    decode [0x00000123, 1] = .ok (.setpropFullscreen true 1, []) := rfl
theorem test_decode_setpropWidth : decode [0x00000033, 0x64] = .ok (.setpropWidth false 100, []) := rfl
theorem test_decode_setpropHeight : decode [0x00000143, 9] = .ok (.setpropHeight true 9, []) := rfl
theorem test_decode_setpropDebug : decode [0x00000053, 1] = .ok (.setpropDebug false 1, []) := rfl
theorem test_decode_setpropUnknown :
    decode [0x00000073, 1] = .ok (.setpropUnknown 7 false 1, [])
      ∧ decode [0x00000193, 7] = .ok (.setpropUnknown 9 true 7, []) := ⟨rfl, rfl⟩
theorem test_decode_getpropHoff : decode [0x00000004] = .ok (.getpropHoff, []) := rfl
theorem test_decode_getpropVoff : decode [0x00000014] = .ok (.getpropVoff, []) := rfl
theorem test_decode_getpropFullscreen : decode [0x00000024] = .ok (.getpropFullscreen, []) := rfl
theorem test_decode_getpropWidth : decode [0x00000034] = .ok (.getpropWidth, []) := rfl
theorem test_decode_getpropHeight : decode [0x00000044] = .ok (.getpropHeight, []) := rfl
theorem test_decode_getpropDebug : decode [0x00000054] = .ok (.getpropDebug, []) := rfl
theorem test_decode_getpropUnknown :
    decode [0x00000064] = .ok (.getpropUnknown 6, [])
      ∧ decode [0x000000F4] = .ok (.getpropUnknown 15, []) := ⟨rfl, rfl⟩
theorem test_decode_extractrow : decode [0x00000005, 0x1BF] = .ok (.extractrow 447, []) := rfl

/-- Illegal headers of the table of 95_test_vectors.md section 2.1: one word is consumed. -/
theorem test_fetch_illegal_op : fetch [0x0000000F, 1] = .illegal .reservedOp [1] := by decide
theorem test_fetch_illegal_bits : fetch [0x80000001, 1] = .illegal .reservedBits [1] := by decide
theorem test_fetch_illegal_pid : fetch [0x00000012, 1] = .illegal .propertyField [1] := by decide
theorem test_fetch_illegal_def : fetch [0x00000104, 1] = .illegal .deferField [1] := by decide
theorem test_fetch_truncated : fetch [0x00000002, 1, 2, 3] = .incomplete := by decide

/-- Every operand word of a row has a value: the table's own words, with operands of zero. -/
theorem test_decodeTableWord :
    decodeTableWord 32 0x00000002 = some (.renderline 0 0 0 0)
      ∧ decodeTableWord 32 0x00000083 = some (.setpropUnknown 8 false 0)
      ∧ decodeTableWord 64 0x0000000500000003 = some (.setpropHoff false 5)
      ∧ decodeTableWord 32 0x00000006 = none := by decide

/-- Worked encodings of rule R84, the other way. -/
theorem test_encode :
    encode (.renderline 1820 21 0 0) = [0x00000002, 0x0000071C, 0x00000015, 0, 0]
      ∧ encode (.setpropUnknown 9 true 7) = [0x00000193, 7] := by decide

/-- Assembler lines of spec/95_test_vectors.md programs P2 and P3. -/
theorem test_asm :
    asm (.setpropHoff false 0xFFFE7960) = "SETPROP HOFF, -100000"
      ∧ asm (.setpropFullscreen true 0) = "SETPROP FULLSCREEN, 0, DEFER"
      ∧ asm (.renderline 0 21 0 0) = "RENDERLINE 0, 21, 0, 0" := by decide +kernel

/-! ## Helpers -/

/-- The next state, or `s` itself when there is none. -/
def after (o : Host.Outcome State Fault Refusal) (s : State) : State :=
  match o with
  | .next t => t
  | .fault _ => s
  | .refused _ => s

/-- One command. -/
def run1 (i : Instr) (s : State) : State := after (exec i s) s

/-- After reset, every sample `c`. -/
def solid (c : Byte) : State :=
  { State.reset with mem := { State.reset.mem with smp := Cells.rebuild smpDepth (fun _ => some c) [] } }

/-- Just after a successful INIT in the format XRGB, every sample `c`. -/
def ready (c : Byte) : State := run1 .init (solid c)

/-- `ready`, with the latest line number, the vertical offset and one flag given. -/
def readyAt (c : Byte) (line voff : Word) (filledRow : Nat) : State :=
  { ready c with prevline := line, voff := voff, mem := (ready c).mem.markFilled filledRow }

/-- The debug geometry after reset. -/
def debugReset : State := State.resetOf { Strap.default with debug := true }

/-- The latest response. -/
def latest (s : State) : Option Response := s.responses.head?

/-- A lookup in the format XRGB for samples given by index modulo 2048. -/
def look (smp : Nat → Byte) (k : Word) : Word :=
  paletteEntry 0x00FF0000 0x0000FF00 0x000000FF (smp (k &&& 0x7FF).toNat)

/-! ## Instructions, with the values of 95_test_vectors.md -/

/-- S15. -/
theorem test_tick : latest (run1 .tick State.reset) = some { rsp := 0, ill := false } := by decide

/-- INIT with the answer XBGR: `RSP = 1`, `CR.RMASK = 0xFF`, `PAL[0x07] = 0xFF`. -/
theorem test_init_xbgr :
    let s := run1 .init { State.reset with
      surface := { ok := true, bpp := 4, rmask := 0xFF, gmask := 0xFF00, bmask := 0xFF0000 } }
    latest s = some { rsp := 1, ill := false } ∧ s.rmask = 0xFF ∧ s.mem.readPal 7 = 0xFF := by
  decide +kernel

/-- INIT with `bpp = 3`: `RSP = 0`, Uninitialized. -/
theorem test_init_bpp3 :
    let s := run1 .init { ready 0 with surface := { defaultSurface with bpp := 3 } }
    latest s = some { rsp := 0, ill := false } ∧ s.mode = .uninitialized := by decide +kernel

/-- A5: `VOFF = 20`, line 467: row 447 dimmed, row 446 full, both flags set. -/
theorem test_renderline_last_row :
    let s := run1 (.renderline 0 467 0 0) (readyAt 0xFF 0 20 0)
    s.mem.readRaster 447 617 = 0x00BDBDBD ∧ s.mem.readRaster 446 617 = 0x00FFFFFF
      ∧ s.mem.readFilled 447 = true ∧ s.mem.readFilled 445 = false ∧ s.prevline = 467
      ∧ s.frameEvents = 0 := by decide +kernel

/-- A boundary as in P2: a row whose flag is clear is blanked, a filled row keeps its pixels, the flags
are cleared, one event; A3: a line above `VOFF` writes nothing. -/
theorem test_renderline_boundary :
    let s := run1 (.renderline 0 19 0 0) (readyAt 0xFF 467 20 446)
    s.mem.readRaster 5 3 = 0 ∧ s.mem.readFilled 446 = false ∧ s.frameEvents = 1 ∧ s.prevline = 19
      ∧ Cells.find s.mem.raster 446 = none := by decide +kernel

/-- S2 and S9. -/
theorem test_setpropHoff_clamps :
    (run1 (.setpropHoff false 607) State.reset).hoff = 606
      ∧ (run1 (.setpropHoff false 100000) debugReset).hoff = 200 := by decide

/-- S5: the most negative value; `DEF` has no effect. -/
theorem test_setpropHoff_negative :
    (run1 (.setpropHoff true 0x80000000) { State.reset with hoff := 3 }).hoff = 0 := by decide

/-- S7 and S8. -/
theorem test_setpropVoff_clamps :
    (run1 (.setpropVoff false 78) State.reset).voff = 77
      ∧ (run1 (.setpropVoff false 50) debugReset).voff = 0 := by decide

/-- S10: deferred, no initialisation. -/
theorem test_setpropFullscreen_deferred :
    let s := run1 (.setpropFullscreen true (-7)) (ready 0)
    s.fullscreen = true ∧ s.fsActive = false ∧ s.queries.length = 1
      ∧ latest s = some { rsp := 1, ill := false } := by decide +kernel

/-- P3 line 15: re-initialisation with a failing answer. -/
theorem test_setpropFullscreen_fails :
    let s := run1 (.setpropFullscreen false 0)
      { ready 0 with fullscreen := true, surface := { defaultSurface with ok := false } }
    s.fullscreen = false ∧ s.mode = .uninitialized ∧ latest s = some { rsp := 0, ill := false } := by
  decide +kernel

/-- S11, and its siblings of rules R166 and R167. -/
theorem test_setprop_readOnly :
    run1 (.setpropWidth false 100) State.reset = State.reset.respond 1
      ∧ run1 (.setpropHeight false 100) State.reset = State.reset.respond 1
      ∧ run1 (.setpropDebug false 1) State.reset = State.reset.respond 1 := by decide

/-- S12. -/
theorem test_setpropUnknown :
    run1 (.setpropUnknown 15 false 0) State.reset = State.reset.respond 1 := by decide

theorem test_getpropHoff :
    latest (run1 .getpropHoff { State.reset with hoff := 606 }) = some { rsp := 606, ill := false } := by
  decide

theorem test_getpropVoff :
    latest (run1 .getpropVoff { State.reset with voff := 77 }) = some { rsp := 77, ill := false } := by
  decide

theorem test_getpropFullscreen :
    latest (run1 .getpropFullscreen { State.reset with fullscreen := true, fsActive := false })
      = some { rsp := 1, ill := false } := by decide

/-- S13, normal and debug. -/
theorem test_getprop_geometry :
    latest (run1 .getpropWidth State.reset) = some { rsp := 618, ill := false }
      ∧ latest (run1 .getpropHeight debugReset) = some { rsp := 530, ill := false }
      ∧ latest (run1 .getpropDebug debugReset) = some { rsp := 1, ill := false } := by decide

/-- S14. -/
theorem test_getpropUnknown :
    latest (run1 (.getpropUnknown 6) State.reset) = some { rsp := 0, ill := false } := by decide

/-- X3: the format XBGR; the last row extracts. -/
theorem test_extractrow_xbgr :
    let s := { ready 0 with
      rmask := 0xFF, bmask := 0xFF0000
      mem := (ready 0).mem.writeRow 447 (List.replicate 618 0x00556D48) }
    (run1 (.extractrow 447) s).mem.readDst 617 = 0x00486D55 := by decide +kernel

/-- `EXTRACTROW 448` in the normal geometry leaves `DST` untouched. -/
theorem test_extractrow_out_of_range :
    (run1 (.extractrow 448) (ready 0)).mem.dst = [] := by decide +kernel

/-! ## Shared operations, with the values of 95_test_vectors.md -/

/-- The table of section 2.2, rows `0x5A`, `0xA5` and `0x92`. -/
theorem test_palette :
    paletteEntry 0xFF0000 0xFF00 0xFF 0x5A = 0x00486D55
      ∧ paletteEntry 0xFF000000 0xFF0000 0xFF00 0xA5 = 0xB691AA00
      ∧ paletteEntry 0xFF00 0xFF0000 0xFF000000 0x92 = 0xAA484800 := by decide +kernel

/-- V12: `SMP[k] = k & 0xFF`, offset 0. -/
theorem test_resample_v12 :
    resample (look (fun k => BitVec.ofNat 8 k)) 0 6
      = ([0x005A3C3C, 0x006C0000, 0x00C60000, 0x007C1200, 0x00462200, 0x00A02200],
         [0x00422D2D, 0x00510000, 0x00930000, 0x005D0C00, 0x00331800, 0x00781800]) := by
  decide +kernel

/-- V13: the window wraps in the middle of a triple. -/
theorem test_resample_v13 :
    resample (look (fun k => BitVec.ofNat 8 k)) 2045 3
      = ([0x00C0F0F0, 0x00665A5A, 0x00540000], [0x0090B4B4, 0x004B4242, 0x003F0000]) := by
  decide +kernel

/-- V9 and the length corner cases of section 2.3. -/
theorem test_resample_v9 :
    (resample (look (fun k => if k = 3 then 0xFF else 0)) 0 5)
        = ([0x000F0F0F, 0x004B4B4B, 0x000F0F0F], [0x00090909, 0x00363636, 0x00090909])
      ∧ resample (look fun _ => 0) 0 2 = ([], []) := by decide +kernel

/-- The SHIFTOF table of section 2.5. -/
theorem test_shiftOf :
    [0x000000FF, 0x0000FF00, 0x00FF0000, 0xFF000000, 0x3FF00000, 0x000FFC00, 0x000003FF].map shiftOf
        = [0, 8, 16, 24, 22, 12, 2]
      ∧ [0x0000F800, 0x000007E0, 0x0000001F, 0xFFFFFFFF, 0x80000001, 0x00000100, 0x80000000].map shiftOf
        = [11, 5, 0, 24, 24, 8, 31] := by decide +kernel

/-- X2, X5, X8 and X9. -/
theorem test_extractPixel :
    extractPixel 16 8 0 0xA5123456 = 0x00123456 ∧ extractPixel 8 16 24 0x556D4800 = 0x00486D55
      ∧ extractPixel 22 12 2 0x2AD5A9F3 = 0x00AB5A7C ∧ extractPixel 11 5 0 0x0000B5F6 = 0x0016AFF6 := by
  decide

/-- Rule R10: the offset bounds of the two geometries. -/
theorem test_offset_bounds :
    hoffMax false = 606 ∧ hoffMax true = 200 ∧ voffMax false = 77 ∧ voffMax true = 0 := by decide

/-- CAPTURE is one EXTRACTROW per row, NOP is TICK, REINIT is INIT (rule R86). -/
theorem test_pseudo :
    (captureCommands 448).length = 448 ∧ (captureCommands 3) = [.extractrow 0, .extractrow 1, .extractrow 2]
      ∧ encode nopCommand = [0] ∧ encode reinitCommand = [1]
      ∧ encode (applyCommand true) = [0x00000023, 1] := by decide +kernel

/-! ## The step, reset and the host -/

/-- `withFetchWord` runs the row's instruction as the next one. -/
theorem test_withFetchWord :
    latest (after (step (State.reset.withFetchWord 32 0x00000044)) State.reset)
        = some { rsp := 448, ill := false }
      ∧ (after (step (State.reset.withFetchWord 32 0x00000001)) State.reset).mode = .initialized := by
  decide +kernel

/-- P5: an illegal header is answered with `ILL = 1`. -/
theorem test_step_illegal :
    latest (after (step { State.reset with port := [0x00000012] }) State.reset)
      = some { rsp := 0, ill := true } := by decide

/-- The host fills `SMP` and writes one entry; a reset keeps them. -/
theorem test_host_memory :
    let s := State.hardReset (State.applyHost (.smpWrite 605 7) (State.applyHost (.smpFill 0xC0) State.reset))
    s.mem.readSmp 605 = 7 ∧ s.mem.readSmp 606 = 0xC0 ∧ s.mem.readSmp 0 = 0xC0 := by decide +kernel

/-- Reset memory has the canonical form, and so has the memory after INIT. -/
theorem test_reset_memory_wf : Memory.wf false State.reset.mem := Memory.wf_empty _ _

/-- The observable result of a run: program P3 lines 2 and 3, then its line 17, an EXTRACTROW that leaves
`DST` as the host poisoned it. -/
theorem test_observeRun :
    let s := { State.reset with
      port := [0x00000003, 0x000186A0, 0x00000004, 0x00000005, 0x16]
      mem := State.reset.mem.writeDst 618 fun _ => 7 }
    let o := observeRun 9 s
    o.responses.map Response.rsp = [1, 606, 0] ∧ o.rows = [List.replicate 618 7]
      ∧ o.properties = { hoff := 606, voff := 0, fullscreen := 0, width := 618, height := 448, debug := 0 }
      ∧ o.frameEvents = 0 := by decide +kernel

/-! ## Witnesses for the statements' hypotheses -/

theorem ready_smp (c : Byte) (k : Nat) (hk : k < 2048) : (ready c).mem.readSmp k = c := by
  show (Cells.find (Cells.rebuild smpDepth (fun _ => some c) []) k).getD _ = c
  rw [Cells.find_rebuild, if_pos (show k < smpDepth from hk)]; rfl

/-- The state after INIT meets the invariant. -/
theorem ready_inv (c : Byte) : (ready c).Inv := by
  have h0 : Strap.legal State.reset.strap := by decide
  have hw : wellFormedFormat (solid c).query.surface.rmask (solid c).query.surface.gmask
      (solid c).query.surface.bmask = true := by
    show wellFormedFormat 0x00FF0000 0x0000FF00 0x000000FF = true
    decide
  refine ⟨h0, h0.1, h0.2, fun _ => rfl, fun _ _ k hk => ?_, fun _ r hr => ?_, ?_⟩
  · exact State.initialised_palette (solid c).query hw hk
  · have h := State.initialised_filled (solid c).query hr
    show (Cells.find (solid c).query.initialised.mem.filled r).isSome = true
    rw [h]; rfl
  · refine State.initialised_memWf (solid c).query ?_
    exact ⟨Cells.rebuild_wf _ (Cells.wf_nil _) le_rfl, Cells.wf_nil _, ⟨Cells.wf_nil _, nofun⟩,
      Cells.wf_nil _, Cells.wf_nil _⟩

theorem witness_DecodeInvertsEncode :
    ∃ (i : Instr) (rest : List Word), i.wellFormed = true ∧ rest ≠ [] ∧ i = .setpropUnknown 6 true 7 :=
  ⟨.setpropUnknown 6 true 7, [0], by decide⟩

theorem witness_EncodeInvertsDecode :
    ∃ ws i rest, decode ws = .ok (i, rest) ∧ rest = [0] :=
  ⟨[0x00000193, 7, 0], .setpropUnknown 9 true 7, [0], rfl, rfl⟩

/-- A header of the last row, with `PID = 15`, and one of no row. -/
theorem witness_HeaderTableSelectsCommand :
    (∃ row ∈ Claims.headerRows, Claims.selects 0x000000F4 row)
      ∧ ∀ row ∈ Claims.headerRows, ¬ Claims.selects 0x00000104 row := by decide +kernel

/-- RENDERLINE with exactly its five words, and with one word less. -/
theorem witness_PacketLengthFollowsFromOp :
    ¬ Claims.illegalHeader 2 ∧ Claims.wordsOf 2 ≤ [(1 : Word), 2, 3, 4].length + 1
      ∧ [(1 : Word), 2, 3].length + 1 < Claims.wordsOf 2 := by decide

theorem witness_StepRunsDecodedCommand :
    ∃ s : State, decode s.port = .ok (.setpropVoff false 78, [0]) :=
  ⟨{ State.reset with port := [0x00000013, 78, 0] }, rfl⟩

theorem witness_IllegalHeaderIsAnswered :
    ∃ (s : State) (h : Word) (ws : List Word), s.port = h :: ws ∧ Claims.illegalHeader h :=
  ⟨{ State.reset with port := [0x00000104, 1] }, 0x00000104, [1], rfl, by decide⟩

/-- A truncated RENDERLINE with and without a host that goes on. -/
theorem witness_TruncatedPacketWaits :
    ∃ (s s' : State) (h : Word) (ws : List Word), s.port = h :: ws ∧ s'.port = h :: ws
      ∧ ¬ Claims.illegalHeader h ∧ ws.length + 1 < Claims.wordsOf h
      ∧ s.host = [.present [4]] ∧ s'.host = [] :=
  ⟨{ State.reset with port := [2, 1, 2, 3], host := [.present [4]] },
    { State.reset with port := [2, 1, 2, 3] }, 2, [1, 2, 3], rfl, rfl, by decide, by decide, rfl, rfl⟩

theorem witness_SetpropFullscreenStores :
    (true = true ∨ (ready 0).mode = .uninitialized)
      ∧ (false = true ∨ State.reset.mode = .uninitialized) := ⟨.inl rfl, .inr rfl⟩

theorem witness_SetpropFullscreenReinitialises : (ready 0).mode = .initialized := rfl

theorem witness_GetpropAnswersStoredValue : State.reset.strap.debug = false := rfl

/-- The premises of the three clauses, with the last row and the last code. -/
theorem witness_InitSucceeds :
    State.reset.surface.ok = true ∧ State.reset.surface.bpp = 4
      ∧ wellFormedFormat State.reset.surface.rmask State.reset.surface.gmask State.reset.surface.bmask
        = true
      ∧ 447 < State.reset.height := by decide

theorem witness_InitFails :
    ∃ s s' : State, (s.surface.ok = false ∧ s.surface.bpp = 4) ∧ (s'.surface.ok = true
      ∧ s'.surface.bpp ≠ 4) :=
  ⟨{ State.reset with surface := { defaultSurface with ok := false } },
    { State.reset with surface := { defaultSurface with bpp := 3 } }, by decide⟩

/-- INIT after reset: the mode changes, it initialises, and it enters the Initialized state. -/
theorem witness_ModeChangesOnlyByInitialisation :
    ∃ t, exec .init State.reset = .next t ∧ t.mode ≠ State.reset.mode
      ∧ Claims.initialises .init State.reset ∧ State.reset.mode = .uninitialized
      ∧ t.mode = .initialized :=
  ⟨_, rfl, by decide, .inl rfl, rfl, rfl⟩

/-- A deferred SETPROP.FULLSCREEN does not initialise. -/
theorem witness_FormatFollowsInitialisation :
    ∃ t, exec (.setpropFullscreen true 1) (ready 0) = .next t
      ∧ ¬ Claims.initialises (.setpropFullscreen true 1) (ready 0) := by
  refine ⟨_, rfl, ?_⟩
  rintro (h | ⟨v, h, -⟩) <;> cases h

theorem witness_PropertiesPersist :
    (∃ t, exec (.setpropHoff false 606) State.reset = .next t ∧ t.hoff ≠ State.reset.hoff)
      ∧ (∃ t, exec (.setpropVoff false 77) State.reset = .next t ∧ t.voff ≠ State.reset.voff)
      ∧ ∃ t, exec (.setpropFullscreen true 1) State.reset = .next t
          ∧ t.fullscreen ≠ State.reset.fullscreen :=
  ⟨⟨_, rfl, by decide⟩, ⟨_, rfl, by decide⟩, ⟨_, rfl, by decide⟩⟩

theorem witness_SpacesHaveOneWriter :
    ∃ t, exec .tick (ready 0) = .next t ∧ (∀ r, Instr.tick ≠ .extractrow r)
      ∧ ¬ Claims.initialises .tick (ready 0) ∧ ∀ a l h v, Instr.tick ≠ .renderline a l h v := by
  refine ⟨_, rfl, nofun, ?_, nofun⟩
  rintro (h | ⟨v, h, -⟩) <;> cases h

/-- Both outcomes of the event count: line 1 after line 2, and line 2 after line 2. -/
theorem witness_EventsComeFromFrameBoundaries :
    (∃ t, exec (.renderline 0 1 0 0) (readyAt 0 2 0 0) = .next t ∧ t.frameEvents = 1)
      ∧ ∃ t, exec (.renderline 0 2 0 0) (readyAt 0 2 0 0) = .next t ∧ t.frameEvents = 0 :=
  ⟨⟨_, rfl, rfl⟩, ⟨_, rfl, rfl⟩⟩

theorem witness_RenderlineUninitializedIsNoop : State.reset.mode = .uninitialized := rfl

theorem witness_RenderlineRecordsLineNumber : (ready 0).mode = .initialized := rfl

theorem witness_RenderlineFrame : (ready 0).mode = .initialized := rfl

/-- Every clause: line 467 at `VOFF = 20` places row 447 and its pair 446; at a boundary row 5 is clear
and row 9 is filled; column 617 is the last. -/
theorem witness_RenderlineWritesRowPair :
    let s := readyAt 0xFF 500 20 9
    s.mode = .initialized ∧ 617 < s.width
      ∧ (Claims.row s 467).toNat = 447 ∧ (Claims.row s 467).toNat < s.height
      ∧ (Claims.row s 467 ^^^ 1).toNat = 446
      ∧ (467 : Word).toNat < s.prevline.toNat ∧ s.mem.readFilled 5 = false
      ∧ s.mem.readFilled 9 = true := by decide +kernel

/-- Both disjuncts: a written row, and a row that was filled while no boundary occurs. -/
theorem witness_RenderlineSetsFlags :
    let s := readyAt 0xFF 467 20 9
    s.mode = .initialized ∧ 447 < s.height ∧ Claims.written s 467 447 ∧ ¬ Claims.written s 467 9
      ∧ s.prevline.toNat ≤ (467 : Word).toNat ∧ s.mem.readFilled 9 = true := by decide +kernel

/-- The first and the last row. -/
theorem witness_PairedRowStaysInRaster :
    (0 : Word).toNat < State.reset.height ∧ (447 : Word).toNat < State.reset.height
      ∧ (529 : Word).toNat < debugReset.height := by decide

/-- The largest legal offset; lines 77 and 524 are placed, lines 76 and 525 are not. -/
theorem witness_RowRangeIsOneSided :
    let s : State := { State.reset with voff := 77 }
    s.voff.toNat ≤ voffMax s.debug ∧ inRaster s (rowOperand s 77) = true
      ∧ inRaster s (rowOperand s 524) = true ∧ inRaster s (rowOperand s 76) = false
      ∧ inRaster s (rowOperand s 525) = false := by decide

/-- Line 3, then line 1; row 10 was never filled and line 1 does not write it. -/
theorem witness_MonotoneLinesThenSmallerFlipOnce :
    let s := ready 0xFF
    let ls : List (Word × Word × Word × Word) := [(0, 3, 0, 0)]
    s.mode = .initialized ∧ s.bpp = 4
      ∧ (s.prevline :: ls.map fun x => x.2.1).Pairwise (fun p q => p.toNat ≤ q.toNat)
      ∧ (1 : Word).toNat < ((s.prevline :: ls.map fun x => x.2.1).getLast (by simp)).toNat
      ∧ ∃ t, Claims.renderLines ls s = .next t ∧ (10 : Word).toNat < s.height
          ∧ t.mem.readFilled (10 : Word).toNat = false ∧ ¬ Claims.written t 1 (10 : Word).toNat := by
  refine ⟨rfl, rfl, by decide, by decide, run1 (.renderline 0 3 0 0) (ready 0xFF), rfl, by decide, ?_, ?_⟩
  · decide +kernel
  · decide +kernel

/-- The well-formed formats of 95_test_vectors.md section 2.2. -/
theorem witness_wellFormedFormat :
    wellFormedFormat 0xFF0000 0xFF00 0xFF = true ∧ wellFormedFormat 0xFF 0xFF00 0xFF0000 = true
      ∧ wellFormedFormat 0xFF000000 0xFF0000 0xFF00 = true
      ∧ wellFormedFormat 0xFF00 0xFF0000 0xFF000000 = true := by decide

theorem witness_PaletteRoundTrip : wellFormedFormat 0xFF000000 0xFF0000 0xFF00 = true := by decide

/-- The worked example of rule R97. -/
theorem witness_PaletteLookupWraps :
    ∃ m : Memory, m.readSmp 2047 = 0x5A ∧ m.readPal 0x5A = 0x00486D55 :=
  ⟨{ State.reset.mem with smp := [(2047, 0x5A)], pal := [(0x5A, 0x00486D55)] }, rfl, rfl⟩

theorem witness_PalettePaddingIsZero : wellFormedFormat 0xFF00 0xFF0000 0xFF000000 = true := by decide

theorem witness_AllWhiteIsFullIntensity : wellFormedFormat 0xFF 0xFF00 0xFF0000 = true := by decide

theorem witness_ExtractionUndoesPalette : wellFormedFormat 0xFF000000 0xFF0000 0xFF00 = true := by
  decide

/-- Every lane. -/
theorem witness_FullPixelLanesAreIndependent : 0 < 4 ∧ 3 < 4 := by decide

theorem witness_DimmedLanesAreIndependent : 0 < 4 ∧ 3 < 4 := by decide

theorem witness_SolidLineKeepsUpperNibble : 0 < 4 ∧ 3 < 4 := by decide

/-- Three pixels from offset 10 read the indices 9 to 17: two memories that differ at index 18 agree
there. -/
theorem witness_ResamplerReadsItsWindowOnly :
    ∃ m m' : Memory, (∀ c, m.readPal c = m'.readPal c) ∧ m.smp ≠ m'.smp
      ∧ ∀ k < 7 * (3 / 3) + 2, m.readSmp (((10 : Word) - 1 + BitVec.ofNat 32 k).toNat % 2048)
        = m'.readSmp (((10 : Word) - 1 + BitVec.ofNat 32 k).toNat % 2048) := by
  refine ⟨State.reset.mem, { State.reset.mem with smp := [(18, 7)] }, fun _ => rfl, by decide, ?_⟩
  intro k hk
  replace hk : k < 9 := hk
  interval_cases k <;> rfl

theorem witness_OffsetWrapsModulo2048 :
    (606 : Word).toNat % 2048 = (2654 : Word).toNat % 2048 ∧ (606 : Word) ≠ 2654 := by decide

/-- The lowest and the highest single bit. -/
theorem witness_CtzIsLowestSetBit : (1 : Word) ≠ 0 ∧ (0x80000000 : Word) ≠ 0 ∧ 0 < ctz 0x80000000 := by
  decide

/-- The lowest and the highest non-zero mask. -/
theorem witness_ShiftOfClosedForm : (1 : Word) ≠ 0 ∧ (0x80000000 : Word) ≠ 0 := by decide

/-- The last row, its last entry, and an index beyond. -/
theorem witness_ExtractrowFillsDst :
    (ready 0).mode = .initialized ∧ (ready 0).bpp = 4 ∧ (447 : Word).toNat < (ready 0).height
      ∧ 617 < (ready 0).width ∧ (ready 0).width ≤ 618 := by decide +kernel

/-- Each of the three tests failing. -/
theorem witness_ExtractrowSilentNoop :
    State.reset.mode = .uninitialized ∧ ({ ready 0 with bpp := 3 } : State).bpp ≠ 4
      ∧ (ready 0).height ≤ (448 : Word).toNat := by decide +kernel

/-- White samples after reset, and line 447 at offset 0. -/
theorem witness_WhiteLineExtractsToWhite :
    ∃ s : State, s.surface.ok = true ∧ s.surface.bpp = 4
      ∧ wellFormedFormat s.surface.rmask s.surface.gmask s.surface.bmask = true
      ∧ (∀ k < 2048, s.mem.readSmp k = 0xFF) ∧ (Claims.row s 447).toNat < s.height := by
  refine ⟨ready 0xFF, rfl, rfl, by decide +kernel, ready_smp 0xFF, by decide +kernel⟩

theorem witness_ExtractedLineIgnoresChannelOrder :
    ∃ s : State, s.Inv ∧ s.mode = .initialized ∧ wellFormedFormat s.rmask s.gmask s.bmask = true
      ∧ (Claims.row s 447).toNat < s.height :=
  ⟨ready 0x5A, ready_inv 0x5A, rfl, by decide +kernel, by decide +kernel⟩

/-- Reset parameters at their bounds, in both geometries. -/
theorem witness_ResetMeetsInvariant :
    Strap.legal { debug := false, hoffReset := 606, voffReset := 77, fullscreenReset := true }
      ∧ Strap.legal { debug := true, hoffReset := 200, voffReset := 0, fullscreenReset := false } := by
  decide

/-- A step from an Initialized state that meets the invariant. -/
theorem witness_StepKeepsInvariant :
    ∃ s t : State, s.Inv ∧ s.mode = .initialized ∧ step s = .next t := by
  have h := ready_inv 0
  exact ⟨{ ready 0 with port := [0] }, _, ⟨h.1, h.2, h.3, h.4, h.5, h.6, h.7⟩, rfl, rfl⟩

theorem witness_OffsetsStayInRange :
    ∃ s t : State, s.Inv ∧ Host.Core.run Sys2Proof.core 2 s = .next t ∧ t.hoff = 606 := by
  have h := ready_inv 0
  exact ⟨{ ready 0 with port := [0x00000003, 607, 0] }, _, ⟨h.1, h.2, h.3, h.4, h.5, h.6, h.7⟩, rfl,
    by decide⟩

/-- Two commands, the second an EXTRACTROW, from an Initialized state. -/
theorem witness_RunOfCommandsIsObserved :
    (∀ i ∈ [Instr.setpropUnknown 15 true 7, .extractrow 447], i.wellFormed = true)
      ∧ (ready 0).host = [] := ⟨by decide, rfl⟩

/-- A hardware reset, and the action at the last index of `DST`. -/
theorem witness_HostReachesBlockThroughPins :
    ∃ s s' : State, s.port = [] ∧ s.host = [.hardReset] ∧ s'.port = []
      ∧ s'.host = [.dstWrite 617 1] ∧ HostAction.dstWrite 617 1 ≠ .hardReset :=
  ⟨{ State.reset with host := [.hardReset] }, { State.reset with host := [.dstWrite 617 1] }, rfl, rfl,
    rfl, rfl, nofun⟩

end Sys2Proof.Tests
end

section
/-! PROOFS. The palette lookup (spec/40_palette.md rule R97). -/

namespace Sys2Proof.Machine

/-- The 11-bit mask of rule R97 is the wrap around the 2048 samples. -/
theorem sampleIndex_toNat (k : Word) : (k &&& 0x7FF).toNat = k.toNat % 2048 := by
  rw [BitVec.toNat_and]
  exact Nat.and_two_pow_sub_one_eq_mod k.toNat 11

theorem Memory.lookup_eq (m : Memory) (k : Word) :
    m.lookup k = m.readPal (m.readSmp (k.toNat % 2048)).toNat := by
  rw [Memory.lookup, sampleIndex_toNat]

/-- The index `-1` wraps to the last sample. -/
theorem Memory.lookup_neg_one (m : Memory) : m.lookup (-1) = m.readPal (m.readSmp 2047).toNat :=
  m.lookup_eq (-1)

/-- Settles O38: the mask is reduction modulo 2048, so the lookup reads the sample at `k % 2048`, and
the worked example is the index `-1`. -/
theorem paletteLookupWraps : Obligations.PaletteLookupWraps := by
  refine ⟨fun m k => ⟨m.lookup_eq k, sampleIndex_toNat k, Nat.mod_lt _ (by decide), BitVec.isLt _⟩, ?_⟩
  intro m hsmp hpal
  have hlook : m.lookup (-1) = 0x00486D55 := by
    rw [m.lookup_neg_one, hsmp]
    exact hpal
  have hword : (-1 : Word) = 0xFFFFFFFF := by decide
  exact ⟨hlook, hword ▸ hlook⟩

end Sys2Proof.Machine
end

section
/-! PROOFS. The dimmed output of the resampler (spec/41_resampler.md rule R107). -/

namespace Sys2Proof.Machine

theorem dim_eq (x : Word) : dim x = ((x &&& 0xFCFCFCFC) >>> 2) * 3 := rfl

/-- Settles O40: the dimmed sequence is `dim` of the full one (`resample_snd`), and `dim` is the
formula of rule R107 at every pixel (`dim_eq`). -/
theorem dimmedRowIsThreeQuarters : Obligations.DimmedRowIsThreeQuarters := by
  intro look off len
  rw [resample_snd]
  exact List.map_congr_left fun x _ => dim_eq x

end Sys2Proof.Machine
end

section
/-! PROOFS. An Initialized RENDERLINE as one step (spec/42_frame_assembler.md rules R124 and R130). -/

namespace Sys2Proof.Machine

/-- In the Initialized state the mode test of rule R125 passes, and the three steps run. -/
theorem exec_renderline_initialized {s : State} (a l h v : Word) (hm : s.mode = .initialized) :
    exec (.renderline a l h v) s = .next ((s.rendered l).respond 0) := by
  have hne : s.mode ≠ .uninitialized := by simp [hm]
  exact if_neg hne

/-- Step 3 comes last, so neither the frame boundary nor the placement bears on `PREVLINE`. -/
@[simp] theorem State.rendered_prevline (s : State) (l : Word) : (s.rendered l).prevline = l :=
  State.recordLine_prevline _ l

/-- Settles O29: the command ends in `rendered`, whose last step stores the line number
(`State.rendered_prevline`), and the response leaves `PREVLINE` alone. -/
theorem renderlineRecordsLineNumber : Obligations.RenderlineRecordsLineNumber := by
  intro s a l h v hm
  refine ⟨(s.rendered l).respond 0, exec_renderline_initialized a l h v hm, ?_⟩
  rw [State.respond_prevline, State.rendered_prevline]

end Sys2Proof.Machine
end

section
/-! PROOFS. The Property Store and TICK, each command as one step (spec/44_property_store.md rules R163,
R164, R168, R171 to R176 and R180). -/

namespace Sys2Proof.Machine

theorem State.respond_eq (s : State) (v : Word) : s.respond v = Claims.answered s v := rfl

/-! ## The commands -/

theorem exec_tick (s : State) : exec .tick s = .next (s.respond 0) := rfl

theorem exec_setpropUnknown (pid : BitVec 4) (d : Bool) (v : Word) (s : State) :
    exec (.setpropUnknown pid d v) s = .next (s.respond 1) := rfl

theorem exec_setpropVoff (d : Bool) (v : Word) (s : State) :
    exec (.setpropVoff d v) s
      = .next (State.respond { s with voff := voffOperand s.strap.debug v } 1) := rfl

theorem exec_setpropFullscreen (d : Bool) (v : Word) (s : State) :
    exec (.setpropFullscreen d v) s
      = if d = false ∧ s.mode = .initialized then .next (s.storeFullscreen v).initialise
        else .next ((s.storeFullscreen v).respond 1) := rfl

/-- With `DEF = 1` the re-initialisation test of rule R164 fails, whatever the operating state. -/
theorem exec_setpropFullscreen_deferred (v : Word) (s : State) :
    exec (.setpropFullscreen true v) s = .next ((s.storeFullscreen v).respond 1) := by
  have hdeferred : ¬ (true = false ∧ s.mode = .initialized) := by simp
  rw [exec_setpropFullscreen, if_neg hdeferred]

theorem exec_getpropHoff (s : State) : exec .getpropHoff s = .next (s.respond s.hoff) := rfl

theorem exec_getpropVoff (s : State) : exec .getpropVoff s = .next (s.respond s.voff) := rfl

theorem exec_getpropFullscreen (s : State) :
    exec .getpropFullscreen s = .next (s.respond (flagWord s.fullscreen)) := rfl

theorem exec_getpropWidth (s : State) :
    exec .getpropWidth s = .next (s.respond (BitVec.ofNat 32 (width s.strap.debug))) := rfl

theorem exec_getpropHeight (s : State) :
    exec .getpropHeight s = .next (s.respond (BitVec.ofNat 32 (height s.strap.debug))) := rfl

theorem exec_getpropDebug (s : State) :
    exec .getpropDebug s = .next (s.respond (flagWord s.strap.debug)) := rfl

/-! ## The words they store and answer -/

theorem flagWord_eq (b : Bool) : flagWord b = if b then 1 else 0 := rfl

theorem widthWord_eq (d : Bool) : BitVec.ofNat 32 (width d) = if d then 0x318 else 0x26A := by
  cases d <;> rfl

theorem heightWord_eq (d : Bool) : BitVec.ofNat 32 (height d) = if d then 0x212 else 0x1C0 := by
  cases d <;> rfl

/-- The worked example of rule R172: 1000 lies above the bound 77 of the normal geometry. -/
theorem voffOperand_normal_1000 : voffOperand false 1000 = 77 := by decide

/-- The worked example of rule R173: any non-zero operand stores 1. -/
theorem fullscreenOperand_neg_seven : fullscreenOperand (-7) = true := by decide

/-! ## The statements -/

/-- Settles O14: no operand of the command reaches its next state (`exec_setpropUnknown`). -/
theorem setpropUnknownIsNoop : Obligations.SetpropUnknownIsNoop := by
  intro s pid d v
  rw [exec_setpropUnknown, State.respond_eq]

/-- Settles O15: each command answers the field it names. For the two written examples the answer is
what the SETPROP stored: the clamped 1000, and the flag of a non-zero operand. -/
theorem getpropAnswersStoredValue : Obligations.GetpropAnswersStoredValue := by
  refine ⟨fun s => ⟨exec_getpropHoff s, exec_getpropVoff s, exec_getpropFullscreen s⟩,
    exec_getpropHoff State.reset, ?_, ?_⟩
  · intro s d hnormal
    have hstored : voffOperand s.strap.debug 1000 = 77 := by rw [hnormal, voffOperand_normal_1000]
    refine ⟨_, exec_setpropVoff d 1000 s, ?_⟩
    rw [exec_getpropVoff, State.respond_voff, hstored, State.respond_eq]
  · intro s
    refine ⟨_, exec_setpropFullscreen_deferred (-7) s, ?_⟩
    rw [exec_getpropFullscreen, State.respond_fullscreen, State.storeFullscreen_fullscreen,
      fullscreenOperand_neg_seven, flagWord_eq, if_pos rfl, State.respond_eq]

/-- Settles O16: the three answers are functions of the strap alone, so no other part of the state
bears on them. -/
theorem getpropAnswersGeometry : Obligations.GetpropAnswersGeometry := by
  intro s
  refine ⟨?_, ?_, ?_⟩
  · rw [exec_getpropWidth, widthWord_eq, State.respond_eq]
  · rw [exec_getpropHeight, heightWord_eq, State.respond_eq]
  · rw [exec_getpropDebug, flagWord_eq, State.respond_eq]

/-- Settles O18: the command is its response and nothing else (`exec_tick`). -/
theorem tickChangesNothing : Obligations.TickChangesNothing := by
  intro s
  rw [exec_tick, State.respond_eq]

end Sys2Proof.Machine
end

section
/-! PROOFS. What one command can do, said once (`exec_effect`), and the frame statements that follow from
it (spec/10_state.md rules R22 to R38, spec/20_memory.md rules R50, R63 and R66). -/

namespace Sys2Proof.Machine

/-! ## Every command, by what it writes -/

/-- The state of an EXTRACTROW whose tests pass, before its response (rule R141). -/
def State.extracted (s : State) (r : Word) : State :=
  { s with mem := s.mem.writeDst s.width fun i => s.remap (s.mem.readRaster r.toNat i) }

/-- What a command does in state `s`: an answer alone, one property, an initialisation, a scanline, or a
row into `DST`; the answer names what the command is not. -/
inductive Effect (s : State) : Instr → State → Prop where
  | answer {i : Instr} (w : Word) (hinit : ¬ Claims.initialises i s)
      (hline : s.mode = .initialized → ∀ a l h v, i ≠ .renderline a l h v) :
      Effect s i (s.respond w)
  | hoff (d : Bool) (v : Word) :
      Effect s (.setpropHoff d v) (State.respond { s with hoff := hoffOperand s.debug v } 1)
  | voff (d : Bool) (v : Word) :
      Effect s (.setpropVoff d v) (State.respond { s with voff := voffOperand s.debug v } 1)
  | fullscreen {d : Bool} (v : Word) (hd : ¬ (d = false ∧ s.mode = .initialized)) :
      Effect s (.setpropFullscreen d v) ((s.storeFullscreen v).respond 1)
  | init : Effect s .init s.initialise
  | reinit (v : Word) (hm : s.mode = .initialized) :
      Effect s (.setpropFullscreen false v) (s.storeFullscreen v).initialise
  | line (a l h v : Word) (hm : s.mode = .initialized) :
      Effect s (.renderline a l h v) ((s.rendered l).respond 0)
  | row {r : Word} (hx : s.extractable r = true) :
      Effect s (.extractrow r) ((s.extracted r).respond 0)

/-! ## The commands that write more than a response -/

theorem exec_init (s : State) : exec .init s = .next s.initialise := rfl

theorem exec_setpropHoff (d : Bool) (v : Word) (s : State) :
    exec (.setpropHoff d v) s = .next (State.respond { s with hoff := hoffOperand s.debug v } 1) := rfl

theorem exec_setpropFullscreen_stored {d : Bool} {s : State} (v : Word)
    (h : ¬ (d = false ∧ s.mode = .initialized)) :
    exec (.setpropFullscreen d v) s = .next ((s.storeFullscreen v).respond 1) := by
  rw [exec_setpropFullscreen, if_neg h]

theorem exec_setpropFullscreen_reinit {s : State} (v : Word) (hm : s.mode = .initialized) :
    exec (.setpropFullscreen false v) s = .next (s.storeFullscreen v).initialise := by
  rw [exec_setpropFullscreen, if_pos ⟨rfl, hm⟩]

theorem exec_renderline_uninitialized {s : State} (a l h v : Word) (hm : s.mode = .uninitialized) :
    exec (.renderline a l h v) s = .next (s.respond 0) :=
  if_pos hm

theorem exec_extractrow_extractable {s : State} {r : Word} (hx : s.extractable r = true) :
    exec (.extractrow r) s = .next ((s.extracted r).respond 0) :=
  if_pos hx

theorem exec_extractrow_noop {s : State} {r : Word} (hx : s.extractable r = false) :
    exec (.extractrow r) s = .next (s.respond 0) := by
  have hne : ¬ s.extractable r = true := by simp [hx]
  exact if_neg hne

theorem Mode.ne_uninitialized {m : Mode} (h : m ≠ .uninitialized) : m = .initialized := by
  cases m
  · exact absurd rfl h
  · rfl

/-! ## Every command completes with one of the effects -/

theorem not_initialises {i : Instr} {s : State} (h1 : i ≠ .init)
    (h2 : ∀ v, i ≠ .setpropFullscreen false v) : ¬ Claims.initialises i s := by
  rintro (h | ⟨v, h, -⟩)
  · exact h1 h
  · exact h2 v h

/-- A command that is no initialisation and no scanline, and answers `w`. -/
theorem effect_answer {i : Instr} {s : State} (w : Word) (he : exec i s = .next (s.respond w))
    (h1 : i ≠ .init) (h2 : ∀ v, i ≠ .setpropFullscreen false v)
    (h3 : ∀ a l h v, i ≠ .renderline a l h v) : ∃ t, exec i s = .next t ∧ Effect s i t :=
  ⟨_, he, .answer w (not_initialises h1 h2) fun _ => h3⟩

/-- Every command completes, with one of these effects. -/
theorem exec_effect (i : Instr) (s : State) : ∃ t, exec i s = .next t ∧ Effect s i t := by
  cases i with
  | tick => exact effect_answer 0 rfl nofun nofun nofun
  | init => exact ⟨_, exec_init s, .init⟩
  | renderline a l h v =>
    by_cases hm : s.mode = .uninitialized
    · refine ⟨_, exec_renderline_uninitialized a l h v hm, .answer 0 (not_initialises nofun nofun) ?_⟩
      intro hm'; rw [hm] at hm'; cases hm'
    · have hm' := Mode.ne_uninitialized hm
      exact ⟨_, exec_renderline_initialized a l h v hm', .line a l h v hm'⟩
  | setpropHoff d v => exact ⟨_, exec_setpropHoff d v s, .hoff d v⟩
  | setpropVoff d v => exact ⟨_, exec_setpropVoff d v s, .voff d v⟩
  | setpropFullscreen d v =>
    by_cases hd : d = false ∧ s.mode = .initialized
    · obtain ⟨rfl, hm⟩ := hd
      exact ⟨_, exec_setpropFullscreen_reinit v hm, .reinit v hm⟩
    · exact ⟨_, exec_setpropFullscreen_stored v hd, .fullscreen v hd⟩
  | setpropWidth d v => exact effect_answer 1 rfl nofun nofun nofun
  | setpropHeight d v => exact effect_answer 1 rfl nofun nofun nofun
  | setpropDebug d v => exact effect_answer 1 rfl nofun nofun nofun
  | setpropUnknown pid d v => exact effect_answer 1 rfl nofun nofun nofun
  | getpropHoff => exact effect_answer _ rfl nofun nofun nofun
  | getpropVoff => exact effect_answer _ rfl nofun nofun nofun
  | getpropFullscreen => exact effect_answer _ rfl nofun nofun nofun
  | getpropWidth => exact effect_answer _ rfl nofun nofun nofun
  | getpropHeight => exact effect_answer _ rfl nofun nofun nofun
  | getpropDebug => exact effect_answer _ rfl nofun nofun nofun
  | getpropUnknown pid => exact effect_answer 0 rfl nofun nofun nofun
  | extractrow r =>
    cases hx : s.extractable r with
    | true => exact ⟨_, exec_extractrow_extractable hx, .row hx⟩
    | false => exact effect_answer 0 (exec_extractrow_noop hx) nofun nofun nofun

theorem effect_of_exec {i : Instr} {s t : State} (h : exec i s = .next t) : Effect s i t := by
  obtain ⟨t', he, heff⟩ := exec_effect i s
  rw [he] at h
  cases h
  exact heff

theorem initialises_init (s : State) : Claims.initialises .init s := .inl rfl

theorem initialises_reinit {s : State} (v : Word) (hm : s.mode = .initialized) :
    Claims.initialises (.setpropFullscreen false v) s := .inr ⟨v, rfl, hm⟩

theorem not_initialises_stored {s : State} {d : Bool} (v : Word)
    (hd : ¬ (d = false ∧ s.mode = .initialized)) :
    ¬ Claims.initialises (.setpropFullscreen d v) s := by
  rintro (h | ⟨v', h, hm⟩)
  · cases h
  · cases h; exact hd ⟨rfl, hm⟩

/-! ## What INITIALISE and a scanline leave unchanged -/

/-- A field that neither outcome of INITIALISE writes. -/
theorem State.initialise_field {β : Type} (f : State → β) {s : State}
    (h1 : f (s.query.initialised.respond 1) = f s) (h0 : f (s.query.initFailed.respond 0) = f s) :
    f s.initialise = f s := by
  rcases s.initialise_cases with ⟨-, e⟩ | ⟨-, e⟩ <;> rw [e]
  · exact h1
  · exact h0

@[simp] theorem State.initialise_strap (s : State) : s.initialise.strap = s.strap :=
  State.initialise_field State.strap rfl rfl

@[simp] theorem State.initialise_hoff (s : State) : s.initialise.hoff = s.hoff :=
  State.initialise_field State.hoff rfl rfl

@[simp] theorem State.initialise_voff (s : State) : s.initialise.voff = s.voff :=
  State.initialise_field State.voff rfl rfl

@[simp] theorem State.initialise_fullscreen (s : State) : s.initialise.fullscreen = s.fullscreen :=
  State.initialise_field State.fullscreen rfl rfl

@[simp] theorem State.initialise_frameEvents (s : State) : s.initialise.frameEvents = s.frameEvents :=
  State.initialise_field State.frameEvents rfl rfl

@[simp] theorem State.initialise_port (s : State) : s.initialise.port = s.port :=
  State.initialise_field State.port rfl rfl

@[simp] theorem State.initialise_host (s : State) : s.initialise.host = s.host :=
  State.initialise_field State.host rfl rfl

@[simp] theorem State.initialise_surface (s : State) : s.initialise.surface = s.surface :=
  State.initialise_field State.surface rfl rfl

@[simp] theorem State.initialise_smp (s : State) : s.initialise.mem.smp = s.mem.smp :=
  State.initialise_field (fun s => s.mem.smp) (by simp) rfl

@[simp] theorem State.initialise_dst (s : State) : s.initialise.mem.dst = s.mem.dst :=
  State.initialise_field (fun s => s.mem.dst) (by simp) rfl

/-- INITIALISE enters the Initialized state exactly on a usable answer (rule R123). -/
theorem State.initialise_mode_iff (s : State) :
    s.initialise.mode = .initialized ↔ s.surface.usable = true := by
  rcases s.initialise_cases with ⟨hu, e⟩ | ⟨hu, e⟩ <;> rw [e, hu] <;> simp

theorem SurfaceAnswer.usable_iff (a : SurfaceAnswer) :
    a.usable = true ↔ a.ok = true ∧ a.bpp = 4 := by
  rw [SurfaceAnswer.usable, Bool.and_eq_true, decide_eq_true_iff]

/-- INITIALISE gives one response, and it is legal. -/
theorem State.initialise_responses (s : State) :
    ∃ r, s.initialise.responses = { rsp := r, ill := false } :: s.responses := by
  rcases s.initialise_cases with ⟨-, e⟩ | ⟨-, e⟩
  · exact ⟨1, by rw [e]; rfl⟩
  · exact ⟨0, by rw [e]; rfl⟩

/-- Every field of `s.rendered l` but three is that of `s`: the field `f` of `State.rendered_eq`. -/
theorem State.rendered_field {β : Type} (f : State → β) (s : State) (l : Word)
    (hf : ∀ n m, f { s with prevline := l, frameEvents := n, mem := m } = f s) :
    f (s.rendered l) = f s := by
  rw [s.rendered_eq l]
  exact hf _ _

@[simp] theorem State.rendered_strap (s : State) (l : Word) : (s.rendered l).strap = s.strap :=
  State.rendered_field State.strap s l fun _ _ => rfl

@[simp] theorem State.rendered_mode (s : State) (l : Word) : (s.rendered l).mode = s.mode :=
  State.rendered_field State.mode s l fun _ _ => rfl

@[simp] theorem State.rendered_hoff (s : State) (l : Word) : (s.rendered l).hoff = s.hoff :=
  State.rendered_field State.hoff s l fun _ _ => rfl

@[simp] theorem State.rendered_voff (s : State) (l : Word) : (s.rendered l).voff = s.voff :=
  State.rendered_field State.voff s l fun _ _ => rfl

@[simp] theorem State.rendered_fullscreen (s : State) (l : Word) :
    (s.rendered l).fullscreen = s.fullscreen :=
  State.rendered_field State.fullscreen s l fun _ _ => rfl

@[simp] theorem State.rendered_fsActive (s : State) (l : Word) :
    (s.rendered l).fsActive = s.fsActive :=
  State.rendered_field State.fsActive s l fun _ _ => rfl

@[simp] theorem State.rendered_rmask (s : State) (l : Word) : (s.rendered l).rmask = s.rmask :=
  State.rendered_field State.rmask s l fun _ _ => rfl

@[simp] theorem State.rendered_gmask (s : State) (l : Word) : (s.rendered l).gmask = s.gmask :=
  State.rendered_field State.gmask s l fun _ _ => rfl

@[simp] theorem State.rendered_bmask (s : State) (l : Word) : (s.rendered l).bmask = s.bmask :=
  State.rendered_field State.bmask s l fun _ _ => rfl

@[simp] theorem State.rendered_bpp (s : State) (l : Word) : (s.rendered l).bpp = s.bpp :=
  State.rendered_field State.bpp s l fun _ _ => rfl

@[simp] theorem State.rendered_port (s : State) (l : Word) : (s.rendered l).port = s.port :=
  State.rendered_field State.port s l fun _ _ => rfl

@[simp] theorem State.rendered_host (s : State) (l : Word) : (s.rendered l).host = s.host :=
  State.rendered_field State.host s l fun _ _ => rfl

@[simp] theorem State.rendered_surface (s : State) (l : Word) :
    (s.rendered l).surface = s.surface :=
  State.rendered_field State.surface s l fun _ _ => rfl

@[simp] theorem State.rendered_queries (s : State) (l : Word) :
    (s.rendered l).queries = s.queries :=
  State.rendered_field State.queries s l fun _ _ => rfl

@[simp] theorem State.rendered_responses (s : State) (l : Word) :
    (s.rendered l).responses = s.responses :=
  State.rendered_field State.responses s l fun _ _ => rfl

@[simp] theorem State.rendered_draw (s : State) (l : Word) :
    (s.rendered l).mem.draw = s.mem.draw := by rw [s.rendered_eq l]

@[simp] theorem State.rendered_smp (s : State) (l : Word) : (s.rendered l).mem.smp = s.mem.smp := by
  rw [s.rendered_eq l]

@[simp] theorem State.rendered_pal (s : State) (l : Word) : (s.rendered l).mem.pal = s.mem.pal := by
  rw [s.rendered_eq l]

@[simp] theorem State.rendered_dst (s : State) (l : Word) : (s.rendered l).mem.dst = s.mem.dst := by
  rw [s.rendered_eq l]

theorem newFrame_iff (s : State) (l : Word) : newFrame s l = true ↔ l.toNat < s.prevline.toNat := by
  rw [newFrame, BitVec.ult_iff_lt, BitVec.lt_def]

/-! ## An extracted row writes `DST` alone -/

@[simp] theorem State.extracted_strap (s : State) (r : Word) : (s.extracted r).strap = s.strap := rfl
@[simp] theorem State.extracted_mode (s : State) (r : Word) : (s.extracted r).mode = s.mode := rfl
@[simp] theorem State.extracted_hoff (s : State) (r : Word) : (s.extracted r).hoff = s.hoff := rfl
@[simp] theorem State.extracted_voff (s : State) (r : Word) : (s.extracted r).voff = s.voff := rfl
@[simp] theorem State.extracted_fullscreen (s : State) (r : Word) :
    (s.extracted r).fullscreen = s.fullscreen := rfl
@[simp] theorem State.extracted_bpp (s : State) (r : Word) : (s.extracted r).bpp = s.bpp := rfl
@[simp] theorem State.extracted_frameEvents (s : State) (r : Word) :
    (s.extracted r).frameEvents = s.frameEvents := rfl
@[simp] theorem State.extracted_draw (s : State) (r : Word) :
    (s.extracted r).mem.draw = s.mem.draw := rfl
@[simp] theorem State.extracted_smp (s : State) (r : Word) : (s.extracted r).mem.smp = s.mem.smp := rfl
@[simp] theorem State.extracted_raster (s : State) (r : Word) :
    (s.extracted r).mem.raster = s.mem.raster := rfl
@[simp] theorem State.extracted_filled (s : State) (r : Word) :
    (s.extracted r).mem.filled = s.mem.filled := rfl

/-! ## The operating state (rules R22, R120 and R201) -/

/-- Of the effects only the two initialisations write `CR.MODE`. -/
theorem Effect.mode_eq {s t : State} {i : Instr} (h : Effect s i t) (hni : ¬ Claims.initialises i s) :
    t.mode = s.mode := by
  cases h with
  | answer w hinit hline => rfl
  | hoff d v => rfl
  | voff d v => rfl
  | fullscreen v hd => rfl
  | init => exact absurd (initialises_init s) hni
  | reinit v hm => exact absurd (initialises_reinit v hm) hni
  | line a l h v hm => exact s.rendered_mode l
  | row hx => rfl

/-- After an initialisation the mode follows the environment's answer. -/
theorem Effect.mode_iff {s t : State} {i : Instr} (h : Effect s i t) (hi : Claims.initialises i s) :
    t.mode = .initialized ↔ s.surface.ok = true ∧ s.surface.bpp = 4 := by
  rw [← SurfaceAnswer.usable_iff]
  rcases hi with rfl | ⟨v, rfl, hm⟩
  · cases h with
    | answer w hinit hline => exact absurd (initialises_init s) hinit
    | init => exact s.initialise_mode_iff
  · cases h with
    | answer w hinit hline => exact absurd (initialises_reinit v hm) hinit
    | fullscreen _ hd => exact absurd ⟨rfl, hm⟩ hd
    | reinit _ _ => exact (s.storeFullscreen v).initialise_mode_iff

/-- Settles O21: `Effect.mode_eq` and `Effect.mode_iff`; an initialisation that is no INIT starts
Initialized. -/
theorem modeChangesOnlyByInitialisation : Obligations.ModeChangesOnlyByInitialisation := by
  intro i s t h
  have heff := effect_of_exec h
  have hchange : t.mode ≠ s.mode → Claims.initialises i s := fun hne => by
    by_contra hni
    exact hne (heff.mode_eq hni)
  refine ⟨hchange, heff.mode_iff, fun hu hin => ?_⟩
  rcases hchange (by rw [hu, hin]; nofun) with hi | ⟨v, -, hm⟩
  · exact hi
  · rw [hu] at hm; cases hm

/-! ## The latched format, the properties, the memories and the event count -/

/-- Settles O22: each effect but the two initialisations leaves the format, the pin, the queries and
`PAL` alone. -/
theorem formatFollowsInitialisation : Obligations.FormatFollowsInitialisation := by
  intro i s t h hni
  cases effect_of_exec h with
  | answer w hinit hline => exact ⟨rfl, rfl, rfl, rfl, rfl, rfl, fun _ => rfl⟩
  | hoff d v => exact ⟨rfl, rfl, rfl, rfl, rfl, rfl, fun _ => rfl⟩
  | voff d v => exact ⟨rfl, rfl, rfl, rfl, rfl, rfl, fun _ => rfl⟩
  | fullscreen v hd => exact ⟨rfl, rfl, rfl, rfl, rfl, rfl, fun _ => rfl⟩
  | init => exact absurd (initialises_init s) hni
  | reinit v hm => exact absurd (initialises_reinit v hm) hni
  | line a l h v hm =>
    exact ⟨by simp, by simp, by simp, by simp, by simp, by simp,
      Memory.readPal_congr (by simp) (by simp)⟩
  | row hx => exact ⟨rfl, rfl, rfl, rfl, rfl, rfl, fun _ => rfl⟩

/-- Settles O23: each property is written by one effect, and the strap by none. -/
theorem propertiesPersist : Obligations.PropertiesPersist := by
  intro i s t h
  cases effect_of_exec h with
  | answer w hinit hline => simp
  | hoff d v => simp
  | voff d v => simp
  | fullscreen v hd => simp
  | init => simp
  | reinit v hm => simp
  | line a l h v hm => simp
  | row hx => simp

/-- No command writes `SMP`. -/
theorem Effect.smp_eq {s t : State} {i : Instr} (h : Effect s i t) : t.mem.smp = s.mem.smp := by
  cases h <;> simp

/-- Only an extracted row writes `DST`. -/
theorem Effect.dst_eq {s t : State} {i : Instr} (h : Effect s i t) (hnx : ∀ r, i ≠ .extractrow r) :
    t.mem.dst = s.mem.dst := by
  cases h with
  | answer w hinit hline => rfl
  | hoff d v => rfl
  | voff d v => rfl
  | fullscreen v hd => rfl
  | init => exact s.initialise_dst
  | reinit v hm => exact (s.storeFullscreen v).initialise_dst
  | line a l h v hm => exact s.rendered_dst l
  | @row r hx => exact absurd rfl (hnx r)

/-- Only an initialisation and a scanline write `RASTER` and `FILLED`, or make a fresh draw. -/
theorem Effect.rows_eq {s t : State} {i : Instr} (h : Effect s i t) (hni : ¬ Claims.initialises i s)
    (hnl : ∀ a l h v, i ≠ .renderline a l h v) :
    t.mem.raster = s.mem.raster ∧ t.mem.filled = s.mem.filled ∧ t.mem.draw = s.mem.draw := by
  cases h with
  | answer w hinit hline => exact ⟨rfl, rfl, rfl⟩
  | hoff d v => exact ⟨rfl, rfl, rfl⟩
  | voff d v => exact ⟨rfl, rfl, rfl⟩
  | fullscreen v hd => exact ⟨rfl, rfl, rfl⟩
  | init => exact absurd (initialises_init s) hni
  | reinit v hm => exact absurd (initialises_reinit v hm) hni
  | line a l h v hm => exact absurd rfl (hnl a l h v)
  | row hx => exact ⟨rfl, rfl, rfl⟩

/-- Settles O24: a read looks at its own space and the draw (`Effect.smp_eq`, `Effect.dst_eq`,
`Effect.rows_eq`). -/
theorem spacesHaveOneWriter : Obligations.SpacesHaveOneWriter := by
  intro i s t hexec
  have heff := effect_of_exec hexec
  refine ⟨Memory.readSmp_congr heff.smp_eq, fun hnx => Memory.readDst_congr (heff.dst_eq hnx),
    fun hni hnl => ?_⟩
  obtain ⟨hraster, hfilled, hdraw⟩ := heff.rows_eq hni hnl
  exact ⟨Memory.readRaster_congr hraster hdraw, Memory.readFilled_congr hfilled hdraw⟩

/-- Only an Initialized scanline counts an event. -/
theorem Effect.frameEvents_eq {s t : State} {i : Instr} (h : Effect s i t)
    (hnl : ¬ (s.mode = .initialized ∧ ∃ a l h v, i = .renderline a l h v)) :
    t.frameEvents = s.frameEvents := by
  cases h with
  | answer w hinit hline => rfl
  | hoff d v => rfl
  | voff d v => rfl
  | fullscreen v hd => rfl
  | init => exact s.initialise_frameEvents
  | reinit v hm => exact (s.storeFullscreen v).initialise_frameEvents
  | line a l h v hm => exact absurd ⟨hm, a, l, h, v, rfl⟩ hnl
  | row hx => rfl

/-- Settles O25: only an Initialized scanline counts (`Effect.frameEvents_eq`), and it counts exactly at
a boundary (`State.rendered_frameEvents`). -/
theorem eventsComeFromFrameBoundaries : Obligations.EventsComeFromFrameBoundaries := by
  intro i s t hexec
  by_cases hline : s.mode = .initialized ∧ ∃ a l h v, i = .renderline a l h v
  · obtain ⟨hm, a, l, h, v, rfl⟩ := hline
    rw [exec_renderline_initialized a l h v hm] at hexec
    cases hexec
    have hevent : ((s.rendered l).respond 0).frameEvents
        = if newFrame s l then s.frameEvents + 1 else s.frameEvents := s.rendered_frameEvents l
    have hboundary : (∃ a' l' h' v', Instr.renderline a l h v = .renderline a' l' h' v'
        ∧ l'.toNat < s.prevline.toNat) ↔ newFrame s l = true := by
      rw [newFrame_iff]
      refine ⟨?_, fun hlt => ⟨a, l, h, v, rfl, hlt⟩⟩
      rintro ⟨_, _, _, _, hi, hlt⟩
      cases hi
      exact hlt
    rw [hevent, hboundary]
    cases newFrame s l <;> simp [hm]
  · have hsame := (effect_of_exec hexec).frameEvents_eq hline
    refine ⟨.inl hsame, fun hmore => by omega, ?_⟩
    rintro ⟨hm, a, l, h, v, hi, -⟩
    exact absurd ⟨hm, a, l, h, v, hi⟩ hline

/-- Settles O26: each effect gives one response, and none writes the port, the script, the answer of the
environment or the strap. -/
theorem everyCommandAnswersOnce : Obligations.EveryCommandAnswersOnce := by
  intro i s
  obtain ⟨t, he, heff⟩ := exec_effect i s
  suffices h : ∃ r, t.responses = { rsp := r, ill := false } :: s.responses
      ∧ t.port = s.port ∧ t.host = s.host ∧ t.surface = s.surface ∧ t.strap = s.strap by
    obtain ⟨r, h⟩ := h
    exact ⟨t, r, he, h⟩
  cases heff with
  | answer w hinit hline => exact ⟨w, rfl, rfl, rfl, rfl, rfl⟩
  | hoff d v => exact ⟨1, rfl, rfl, rfl, rfl, rfl⟩
  | voff d v => exact ⟨1, rfl, rfl, rfl, rfl, rfl⟩
  | fullscreen v hd => exact ⟨1, rfl, rfl, rfl, rfl, rfl⟩
  | row hx => exact ⟨0, rfl, rfl, rfl, rfl, rfl⟩
  | line a l h v hm => exact ⟨0, by simp⟩
  | init =>
    obtain ⟨r, hr⟩ := s.initialise_responses
    exact ⟨r, hr, by simp⟩
  | reinit v hm =>
    obtain ⟨r, hr⟩ := (s.storeFullscreen v).initialise_responses
    exact ⟨r, hr, by simp⟩

end Sys2Proof.Machine
end

section
/-! PROOFS. The encoder and the decoder are inverse to each other (spec/30_encoding.md rules R72 to R75
and R83). -/

namespace Sys2Proof

/-! ## Decoding behind the encoder's header -/

/-- The encoder's header is legal when its property number and its flag suit its `OP` (rule R79). -/
theorem headerReject_header {op pid : BitVec 4} {d : Bool} (hop : op.toNat < 6)
    (hpid : pid = 0 ∨ op = 3 ∨ op = 4) (hd : d = false ∨ op = 3) :
    headerReject (header op pid d) = none := by
  rw [headerReject_none, headerOp_header, headerPid_header, headerDef_header, headerRsv_header]
  exact ⟨hop, rfl, hpid, hd⟩

theorem decode_header {op pid : BitVec 4} {d : Bool} (hop : op.toNat < 6)
    (hpid : pid = 0 ∨ op = 3 ∨ op = 4) (hd : d = false ∨ op = 3) (ws : List Word) :
    decode (header op pid d :: ws) = decodeOperands op pid d ws := by
  rw [decode_of_legal (headerReject_header hop hpid hd), headerOp_header, headerPid_header,
    headerDef_header]

/-- A header whose property number and flag are 0 is legal for every `OP` below 6. -/
theorem decode_header_plain {op : BitVec 4} (hop : op.toNat < 6) (ws : List Word) :
    decode (header op 0 false :: ws) = decodeOperands op 0 false ws :=
  decode_header hop (.inl rfl) (.inl rfl) ws

theorem decode_header_setprop (pid : BitVec 4) (d : Bool) (v : Word) (rest : List Word) :
    decode (header 3 pid d :: v :: rest) = .ok (setprop pid d v, rest) :=
  decode_header (by decide) (.inr (.inl rfl)) (.inr rfl) _

theorem decode_header_getprop (pid : BitVec 4) (rest : List Word) :
    decode (header 4 pid false :: rest) = .ok (getprop pid, rest) :=
  decode_header (by decide) (.inr (.inr rfl)) (.inl rfl) _

/-! ## Property numbers (rules R76 and R77) -/

theorem setprop_unknown {pid : BitVec 4} (h : unknownPid pid = true) (d : Bool) (v : Word) :
    setprop pid d v = .setpropUnknown pid d v := by
  have h6 : 6 ≤ pid.toNat := of_decide_eq_true h
  unfold setprop
  split
  case h_7 => rfl
  all_goals omega

theorem getprop_unknown {pid : BitVec 4} (h : unknownPid pid = true) :
    getprop pid = .getpropUnknown pid := by
  have h6 : 6 ≤ pid.toNat := of_decide_eq_true h
  unfold getprop
  split
  case h_7 => rfl
  all_goals omega

/-- Settles O1: the header's fields select the command again (`decode_header`), and the operand words
follow in the order in which the decoder takes them. -/
theorem decodeInvertsEncode : Obligations.DecodeInvertsEncode := by
  intro i rest hwf
  cases i with
  | tick => exact decode_header_plain (by decide) rest
  | init => exact decode_header_plain (by decide) rest
  | renderline a l h v => exact decode_header_plain (by decide) _
  | extractrow r => exact decode_header_plain (by decide) _
  | setpropHoff d v => exact decode_header_setprop 0 d v rest
  | setpropVoff d v => exact decode_header_setprop 1 d v rest
  | setpropFullscreen d v => exact decode_header_setprop 2 d v rest
  | setpropWidth d v => exact decode_header_setprop 3 d v rest
  | setpropHeight d v => exact decode_header_setprop 4 d v rest
  | setpropDebug d v => exact decode_header_setprop 5 d v rest
  | setpropUnknown pid d v =>
    exact (decode_header_setprop pid d v rest).trans (by rw [setprop_unknown hwf])
  | getpropHoff => exact decode_header_getprop 0 rest
  | getpropVoff => exact decode_header_getprop 1 rest
  | getpropFullscreen => exact decode_header_getprop 2 rest
  | getpropWidth => exact decode_header_getprop 3 rest
  | getpropHeight => exact decode_header_getprop 4 rest
  | getpropDebug => exact decode_header_getprop 5 rest
  | getpropUnknown pid =>
    exact (decode_header_getprop pid rest).trans (by rw [getprop_unknown hwf])

/-! ## The packet of a decoded command -/

/-- The property numbers that have a command of their own (rule R76). -/
theorem knownPid_cases {pid : BitVec 4} (h : unknownPid pid = false) :
    pid = 0 ∨ pid = 1 ∨ pid = 2 ∨ pid = 3 ∨ pid = 4 ∨ pid = 5 := by
  revert pid; decide

theorem setprop_packet (pid : BitVec 4) (d : Bool) (v : Word) :
    (setprop pid d v).wellFormed = true ∧ encode (setprop pid d v) = [header 3 pid d, v] := by
  cases hp : unknownPid pid with
  | true => rw [setprop_unknown hp]; exact ⟨hp, rfl⟩
  | false => obtain rfl | rfl | rfl | rfl | rfl | rfl := knownPid_cases hp <;> exact ⟨rfl, rfl⟩

theorem getprop_packet (pid : BitVec 4) :
    (getprop pid).wellFormed = true ∧ encode (getprop pid) = [header 4 pid false] := by
  cases hp : unknownPid pid with
  | true => rw [getprop_unknown hp]; exact ⟨hp, rfl⟩
  | false => obtain rfl | rfl | rfl | rfl | rfl | rfl := knownPid_cases hp <;> exact ⟨rfl, rfl⟩

/-- A stream that decodes begins with a legal header, whose `OP` decodes the words after it. -/
theorem decode_ok {ws : List Word} {i : Instr} {rest : List Word} (h : decode ws = .ok (i, rest)) :
    ∃ hd tl, ws = hd :: tl ∧ headerReject hd = none
      ∧ decodeOperands (headerOp hd) (headerPid hd) (headerDef hd) tl = .ok (i, rest) := by
  cases ws with
  | nil => cases h
  | cons hd tl =>
    cases hr : headerReject hd with
    | none => exact ⟨hd, tl, rfl, hr, (decode_of_legal hr tl).symm.trans h⟩
    | some why => rw [decode_of_illegal hr] at h; cases h

/-- Of an `OP` that is neither SETPROP nor GETPROP a legal header has no other field. -/
theorem header_eq_plain {op pid : BitVec 4} {d : Bool} (hpid : pid = 0 ∨ op = 3 ∨ op = 4)
    (hd : d = false ∨ op = 3) (h3 : op ≠ 3) (h4 : op ≠ 4) : header op pid d = header op 0 false := by
  rw [hpid.resolve_right (by tauto), hd.resolve_right h3]

/-- The operands of a legal header are those of the decoded command, in its packet's order. -/
theorem decodeOperands_packet {op pid : BitVec 4} {d : Bool} {tl rest : List Word} {i : Instr}
    (hpid : pid = 0 ∨ op = 3 ∨ op = 4) (hd : d = false ∨ op = 3)
    (h : decodeOperands op pid d tl = .ok (i, rest)) :
    i.wellFormed = true ∧ header op pid d :: tl = encode i ++ rest := by
  have hop : ∀ k : BitVec 4, op.toNat = k.toNat → op = k := fun _ => BitVec.eq_of_toNat_eq
  have hplain := header_eq_plain hpid hd
  unfold decodeOperands at h
  split at h
  next e =>
    obtain rfl := hop 0 e
    cases h
    exact ⟨rfl, by rw [hplain (by decide) (by decide)]; rfl⟩
  next e =>
    obtain rfl := hop 1 e
    cases h
    exact ⟨rfl, by rw [hplain (by decide) (by decide)]; rfl⟩
  next e =>
    obtain rfl := hop 2 e
    cases h
    exact ⟨rfl, by rw [hplain (by decide) (by decide)]; rfl⟩
  next => cases h
  next e =>
    obtain rfl := hop 3 e
    cases h
    obtain ⟨hwf, henc⟩ := setprop_packet pid d ‹Word›
    exact ⟨hwf, by rw [henc]; rfl⟩
  next => cases h
  next e =>
    obtain rfl := hop 4 e
    cases h
    obtain ⟨hwf, henc⟩ := getprop_packet pid
    exact ⟨hwf, by rw [henc, hd.resolve_right (by decide)]; rfl⟩
  next e =>
    obtain rfl := hop 5 e
    cases h
    exact ⟨rfl, by rw [hplain (by decide) (by decide)]; rfl⟩
  next => cases h
  next => cases h

/-- Settles O2: a legal header is made of its fields (`header_of_fields`), and the operand words are
those the encoder puts behind it (`decodeOperands_packet`). -/
theorem encodeInvertsDecode : Obligations.EncodeInvertsDecode := by
  intro ws i rest h
  obtain ⟨hd, tl, rfl, hlegal, hops⟩ := decode_ok h
  obtain ⟨-, hrsv, hpid, hdef⟩ := headerReject_none.1 hlegal
  rw [header_of_fields hrsv]
  exact decodeOperands_packet hpid hdef hops

end Sys2Proof
end

section
/-! PROOFS. The header table, packet lengths, and what a step finds at the command port
(spec/30_encoding.md rules R71, R78, R79, R81 and R84). -/

namespace Sys2Proof

open Sys2Proof.Machine

/-! ## The header table (rule R78) -/

/-- A header without reserved bits has nine bits. -/
theorem setWidth_of_headerRsv {h : Word} (hr : headerRsv h = 0) : (h.setWidth 9).setWidth 32 = h := by
  have e : (headerRsv h).toNat = 0 := by rw [hr]; rfl
  simp only [headerRsv, BitVec.extractLsb'_toNat, Nat.shiftRight_eq_div_pow] at e
  have := h.isLt
  apply BitVec.eq_of_toNat_eq
  simp only [BitVec.toNat_setWidth]
  omega

/-- Every row's mask covers the reserved bits, and its match has none of them. -/
theorem headerRsv_of_selects {h : Word} {row : String × Word × Word} (hrow : row ∈ Claims.headerRows)
    (hs : Claims.selects h row) : headerRsv h = 0 := by
  have hcover : ∀ row ∈ Claims.headerRows,
      row.2.2.extractLsb' 9 23 = BitVec.allOnes 23 ∧ row.2.1.extractLsb' 9 23 = 0 := by decide
  obtain ⟨hmask, hmatch⟩ := hcover row hrow
  calc headerRsv h = h.extractLsb' 9 23 &&& row.2.2.extractLsb' 9 23 := by
        rw [hmask, BitVec.and_allOnes, headerRsv]
    _ = row.2.1.extractLsb' 9 23 := by rw [← BitVec.extractLsb'_and, hs]
    _ = 0 := hmatch

theorem op_cases {op : BitVec 4} (hop : op.toNat < 6) :
    op = 0 ∨ op = 1 ∨ op = 2 ∨ op = 3 ∨ op = 4 ∨ op = 5 := by
  revert op; decide

/-- The mnemonic that `OP` and `PID` select. -/
def fieldsMnemonic (op pid : BitVec 4) : String :=
  match op.toNat with
  | 0 => "TICK"
  | 1 => "INIT"
  | 2 => "RENDERLINE"
  | 3 => (setprop pid false 0).mnemonic
  | 4 => (getprop pid).mnemonic
  | _ => "EXTRACTROW"

theorem setprop_mnemonic (pid : BitVec 4) (d : Bool) (v : Word) :
    (setprop pid d v).mnemonic = (setprop pid false 0).mnemonic := by
  unfold setprop
  split <;> rfl

/-- With four words behind the header every legal `OP` has its operands. -/
theorem decodeOperands_mnemonic {op : BitVec 4} (hop : op.toNat < 6) (pid : BitVec 4) (d : Bool)
    (a b c e : Word) : ∃ i rest, decodeOperands op pid d [a, b, c, e] = .ok (i, rest)
      ∧ i.mnemonic = fieldsMnemonic op pid := by
  obtain rfl | rfl | rfl | rfl | rfl | rfl := op_cases hop
  · exact ⟨_, _, rfl, rfl⟩
  · exact ⟨_, _, rfl, rfl⟩
  · exact ⟨_, _, rfl, rfl⟩
  · exact ⟨_, _, rfl, setprop_mnemonic pid d a⟩
  · exact ⟨_, _, rfl, rfl⟩
  · exact ⟨_, _, rfl, rfl⟩

/-- The table against the decoder on the headers of nine bits: a selected header is legal and selects
the row's mnemonic, and a legal header is selected. -/
theorem headerRows_nineBits (x : BitVec 9) :
    (∀ row ∈ Claims.headerRows, Claims.selects (x.setWidth 32) row →
        headerReject (x.setWidth 32) = none
        ∧ fieldsMnemonic (headerOp (x.setWidth 32)) (headerPid (x.setWidth 32)) = row.1)
      ∧ (headerReject (x.setWidth 32) = none →
          ∃ row ∈ Claims.headerRows, Claims.selects (x.setWidth 32) row) := by
  revert x; decide +kernel

/-- One header in two rows would have both rows' matches under both masks. -/
theorem match_eq_of_selects {h : Word} {p q : String × Word × Word} (hp : Claims.selects h p)
    (hq : Claims.selects h q) : p.2.1 &&& q.2.2 = q.2.1 &&& p.2.2 := by
  rw [← hp, ← hq, BitVec.and_assoc, BitVec.and_assoc, BitVec.and_comm p.2.2]

/-- Settles O3: a header of the table has no reserved bits, and on nine bits the table and the decoder
agree (`headerRows_nineBits`); two rows differ in a bit that both masks keep. -/
theorem headerTableSelectsCommand : Obligations.HeaderTableSelectsCommand := by
  refine ⟨fun h a b c d row hrow hs => ?_, fun h hnone ws => ?_, ?_⟩
  · have hnine := headerRows_nineBits (h.setWidth 9)
    rw [setWidth_of_headerRsv (headerRsv_of_selects hrow hs)] at hnine
    obtain ⟨hlegal, hname⟩ := hnine.1 row hrow hs
    obtain ⟨hop, -⟩ := headerReject_none.1 hlegal
    rw [decode_of_legal hlegal, ← hname]
    exact decodeOperands_mnemonic hop _ _ a b c d
  · cases hr : headerReject h with
    | some why => exact ⟨why, fetch_of_illegal hr ws⟩
    | none =>
      have hnine := headerRows_nineBits (h.setWidth 9)
      rw [setWidth_of_headerRsv (headerReject_none.1 hr).2.1] at hnine
      obtain ⟨row, hrow, hs⟩ := hnine.2 hr
      exact absurd hs (hnone row hrow)
  · have hdiffer : Claims.headerRows.Pairwise fun p q => p.2.1 &&& q.2.2 ≠ q.2.1 &&& p.2.2 := by
      decide
    exact hdiffer.imp fun hne h hboth => hne (match_eq_of_selects hboth.1 hboth.2)

/-- Settles O4, by running the decoder. -/
theorem workedEncodingsDecode : Obligations.WorkedEncodingsDecode :=
  ⟨rfl, rfl, rfl, rfl, rfl, rfl, rfl, rfl, rfl⟩

/-! ## Packet lengths (rules R71 and R81) -/

theorem illegalHeader_iff (h : Word) : Claims.illegalHeader h ↔ headerReject h ≠ none := by
  rw [Ne, headerReject_none]
  show (6 ≤ (headerOp h).toNat ∨ headerRsv h ≠ 0
    ∨ (headerPid h ≠ 0 ∧ headerOp h ≠ 3 ∧ headerOp h ≠ 4) ∨ (headerDef h = true ∧ headerOp h ≠ 3)) ↔ _
  rw [← not_lt, ← Bool.not_eq_false]
  tauto

theorem headerReject_of_legal {h : Word} (hl : ¬ Claims.illegalHeader h) : headerReject h = none := by
  rwa [illegalHeader_iff, not_not] at hl

theorem wordsOf_eq (h : Word) : Claims.wordsOf h = operandCount (headerOp h) + 1 := by
  show (match (headerOp h).toNat with | 2 => 5 | 3 => 2 | 5 => 2 | _ => 1) = _
  unfold operandCount
  split <;> simp_all

/-- With its operands there, a legal `OP` takes exactly them. -/
theorem decodeOperands_enough {op : BitVec 4} (hop : op.toNat < 6) (pid : BitVec 4) (d : Bool)
    {ws : List Word} (hws : operandCount op ≤ ws.length) :
    ∃ i, decodeOperands op pid d ws = .ok (i, ws.drop (operandCount op)) := by
  obtain rfl | rfl | rfl | rfl | rfl | rfl := op_cases hop
  · exact ⟨_, rfl⟩
  · exact ⟨_, rfl⟩
  · match ws, hws with
    | _ :: _ :: _ :: _ :: _, _ => exact ⟨_, rfl⟩
  · match ws, hws with
    | _ :: _, _ => exact ⟨_, rfl⟩
  · exact ⟨_, rfl⟩
  · match ws, hws with
    | _ :: _, _ => exact ⟨_, rfl⟩

/-- With fewer words the packet is truncated. -/
theorem decodeOperands_short {op : BitVec 4} (hop : op.toNat < 6) (pid : BitVec 4) (d : Bool)
    {ws : List Word} (hws : ws.length < operandCount op) :
    decodeOperands op pid d ws = .error .truncated := by
  obtain rfl | rfl | rfl | rfl | rfl | rfl := op_cases hop
  · cases hws
  · cases hws
  · match ws, hws with
    | [], _ => rfl
    | [_], _ => rfl
    | [_, _], _ => rfl
    | [_, _, _], _ => rfl
  · match ws, hws with
    | [], _ => rfl
  · cases hws
  · match ws, hws with
    | [], _ => rfl

theorem decode_truncated {h : Word} {ws : List Word} (hl : ¬ Claims.illegalHeader h)
    (hws : ws.length + 1 < Claims.wordsOf h) : decode (h :: ws) = .error .truncated := by
  have hr := headerReject_of_legal hl
  rw [wordsOf_eq] at hws
  rw [decode_of_legal hr]
  exact decodeOperands_short (headerReject_none.1 hr).1 _ _ (by omega)

/-- Settles O5: the operands are counted by `OP` (`wordsOf_eq`), and the decoder takes that many words
or reports a truncated packet. -/
theorem packetLengthFollowsFromOp : Obligations.PacketLengthFollowsFromOp := by
  intro h ws hl
  refine ⟨fun hws => ?_, decode_truncated hl⟩
  have hr := headerReject_of_legal hl
  rw [wordsOf_eq] at hws ⊢
  rw [decode_of_legal hr, List.drop_succ_cons]
  exact decodeOperands_enough (headerReject_none.1 hr).1 _ _ (by omega)

/-! ## What a step does with the words at the port -/

theorem step_of_command {s : State} {i : Instr} {rest : List Word}
    (h : fetch s.port = .command i rest) : step s = exec i { s with port := rest } := by
  rw [step, h]

theorem step_of_illegal {s : State} {why : Reject} {rest : List Word}
    (h : fetch s.port = .illegal why rest) :
    step s = .next (State.answerIllegal { s with port := rest }) := by
  rw [step, h]

theorem step_of_incomplete {s : State} (h : fetch s.port = .incomplete) : step s = s.hostTurn := by
  rw [step, h]

theorem hostTurn_of_host {s : State} {a : HostAction} {later : List HostAction}
    (h : s.host = a :: later) : s.hostTurn = .next (State.applyHost a { s with host := later }) := by
  rw [State.hostTurn, h]

theorem hostTurn_of_end {s : State} (h : s.host = []) :
    s.hostTurn = if s.port = [] then .fault .noCommand else .fault .truncatedPacket := by
  rw [State.hostTurn, h]

/-- Settles O6: a decoded packet is fetched as its command. -/
theorem stepRunsDecodedCommand : Obligations.StepRunsDecodedCommand :=
  fun _ _ _ h => step_of_command (fetch_of_decode h)

/-- Settles O7: the header is found illegal (`fetch_of_illegal`), and the step answers it. -/
theorem illegalHeaderIsAnswered : Obligations.IllegalHeaderIsAnswered := by
  intro s h ws hport hill
  obtain ⟨why, hr⟩ := Option.ne_none_iff_exists'.1 ((illegalHeader_iff h).1 hill)
  have hf : fetch s.port = .illegal why ws := by rw [hport, fetch_of_illegal hr]
  exact step_of_illegal hf

/-- Settles O8: the decoder reports the truncated packet (`decode_truncated`), so the host has its
turn. -/
theorem truncatedPacketWaits : Obligations.TruncatedPacketWaits := by
  intro s h ws hport hl hws
  have hf : fetch s.port = .incomplete := by rw [hport, fetch, decode_truncated hl hws]
  have hne : s.port ≠ [] := by rw [hport]; exact List.cons_ne_nil h ws
  rw [step_of_incomplete hf]
  exact ⟨fun a later => hostTurn_of_host, fun hend => by rw [hostTurn_of_end hend, if_neg hne]⟩

end Sys2Proof
end

section
/-! PROOFS. The property commands with a stored operand and the read-only ones (spec/44_property_store.md
rules R162 to R168 and R177), and a successful and a failed INIT (spec/42_frame_assembler.md rule R123). -/

namespace Sys2Proof.Machine

/-! ## The signed clamp (spec/00_scope.md rule R12) -/

theorem clamp_toNat (v : Word) {n : Nat} (hn : n < 2 ^ 31) :
    ((clamp v 0 (BitVec.ofNat 32 n)).toNat : Int) = max 0 (min v.toInt n) := by
  have hzero : (0 : Word).toInt = 0 := rfl
  have hbound : (BitVec.ofNat 32 n).toNat = n := by rw [BitVec.toNat_ofNat]; omega
  have hboundInt : (BitVec.ofNat 32 n).toInt = n := by
    rw [BitVec.toInt_eq_toNat_of_lt (by omega), hbound]
  rw [clamp, BitVec.slt_eq_decide, BitVec.slt_eq_decide, hzero, hboundInt]
  simp only [decide_eq_true_eq]
  split
  next hneg => rw [min_eq_left (by omega), max_eq_left (by omega)]; rfl
  next hpos =>
    split
    next hbig => rw [min_eq_right (by omega), max_eq_right (by omega), hbound]
    next hsmall =>
      have hnat : (v.toNat : Int) = v.toInt := by
        have := v.isLt
        have := BitVec.toInt_eq_toNat_cond v
        split at this <;> omega
      omega

theorem hoffMax_eq (d : Bool) : hoffMax d = if d then 200 else 606 := by cases d <;> rfl

theorem voffMax_eq (d : Bool) : voffMax d = if d then 0 else 77 := by cases d <;> rfl

theorem hoffOperand_toNat (d : Bool) (v : Word) :
    ((hoffOperand d v).toNat : Int) = max 0 (min v.toInt (hoffMax d)) :=
  clamp_toNat v (by rw [hoffMax_eq]; split <;> decide)

theorem voffOperand_toNat (d : Bool) (v : Word) :
    ((voffOperand d v).toNat : Int) = max 0 (min v.toInt (voffMax d)) :=
  clamp_toNat v (by rw [voffMax_eq]; split <;> decide)

/-! ## The property statements -/

/-- Settles O9: the operand is stored clamped (`hoffOperand_toNat`). -/
theorem setpropHoffClamps : Obligations.SetpropHoffClamps := by
  intro s d v
  refine ⟨hoffOperand s.debug v, exec_setpropHoff d v s, ?_⟩
  rw [hoffOperand_toNat, hoffMax_eq, State.debug_eq]
  push_cast
  rfl

/-- Settles O10: the operand is stored clamped (`voffOperand_toNat`). -/
theorem setpropVoffClamps : Obligations.SetpropVoffClamps := by
  intro s d v
  refine ⟨voffOperand s.strap.debug v, exec_setpropVoff d v s, ?_⟩
  rw [voffOperand_toNat, voffMax_eq]
  push_cast
  rfl

/-- Settles O11: either premise fails the test of rule R164. -/
theorem setpropFullscreenStores : Obligations.SetpropFullscreenStores := by
  intro s d v hstored
  refine exec_setpropFullscreen_stored v ?_
  rintro ⟨hd, hm⟩
  rcases hstored with h | h
  · rw [hd] at h; cases h
  · rw [hm] at h; cases h

/-- Settles O12: both commands run INITIALISE in the state with the new flag. -/
theorem setpropFullscreenReinitialises : Obligations.SetpropFullscreenReinitialises :=
  fun s v hm => ⟨_, exec_setpropFullscreen_reinit v hm, exec_init (s.storeFullscreen v)⟩

/-- Settles O13: the three commands are their response. -/
theorem setpropReadOnlyIsNoop : Obligations.SetpropReadOnlyIsNoop :=
  fun _ _ _ => ⟨rfl, rfl, rfl⟩

/-- Settles O17: the command is its response. -/
theorem getpropUnknownAnswersZero : Obligations.GetpropUnknownAnswersZero := fun _ _ => rfl

/-! ## INIT -/

theorem State.initialise_of_usable {s : State} (hok : s.surface.ok = true) (hbpp : s.surface.bpp = 4) :
    s.initialise = s.query.initialised.respond 1 :=
  if_pos ((SurfaceAnswer.usable_iff _).2 ⟨hok, hbpp⟩)

theorem State.initialise_of_unusable {s : State} (h : s.surface.ok = false ∨ s.surface.bpp ≠ 4) :
    s.initialise = s.query.initFailed.respond 0 := by
  refine if_neg fun hu => ?_
  obtain ⟨hok, hbpp⟩ := (SurfaceAnswer.usable_iff _).1 hu
  rcases h with h | h
  · rw [hok] at h; cases h
  · exact h hbpp

theorem Memory.readPal_of_find {m : Memory} {c : Nat} {x : Word} (h : Cells.find m.pal c = some x) :
    m.readPal c = x := by rw [Memory.readPal, h, Option.getD_some]

theorem Memory.readFilled_of_find {m : Memory} {r : Nat} {b : Bool}
    (h : Cells.find m.filled r = some b) : m.readFilled r = b := by
  rw [Memory.readFilled, h, Option.getD_some]

/-- The palette of a well-formed answer (rule R92). -/
theorem State.readPal_initialised (s : State)
    (h : wellFormedFormat s.surface.rmask s.surface.gmask s.surface.bmask = true) (c : Byte) :
    s.initialised.mem.readPal c.toNat
      = paletteEntry s.surface.rmask s.surface.gmask s.surface.bmask c := by
  rw [Memory.readPal_of_find (s.initialised_palette h c.isLt), BitVec.ofNat_toNat, BitVec.setWidth_eq]

/-- Settles O19: the usable answer takes the successful branch, whose memory is described by
`State.readPal_initialised` and `State.initialised_filled`. -/
theorem initSucceeds : Obligations.InitSucceeds := by
  intro s hok hbpp
  refine ⟨s.query.initialised.respond 1, ?_, rfl, fun hwf c => ?_, fun r hr => ?_, ?_, ?_⟩
  · rw [exec_init, State.initialise_of_usable hok hbpp]
  · exact State.readPal_initialised s.query hwf c
  · exact Memory.readFilled_of_find (State.initialised_filled s.query hr)
  · exact Memory.readSmp_congr (by simp)
  · exact Memory.readDst_congr (by simp)

/-- Settles O20: the unusable answer takes the failing branch, which leaves the host's memories. -/
theorem initFails : Obligations.InitFails := by
  intro s h
  refine ⟨s.query.initFailed.respond 0, ?_, rfl, fun _ => rfl, fun _ => rfl⟩
  rw [exec_init, State.initialise_of_unusable h]

end Sys2Proof.Machine
end

section
/-! PROOFS. RENDERLINE: the two operating states, every pixel and every flag after it
(spec/42_frame_assembler.md rules R125 to R130). -/

namespace Sys2Proof.Machine

/-! ## Row numbers (rules R128 and R129) -/

theorem inRaster_iff (s : State) (x : Word) : inRaster s x = true ↔ x.toNat < s.height :=
  decide_eq_true_iff

theorem height_eq (d : Bool) : height d = if d then 530 else 448 := rfl

/-- Settles O33: `HEIGHT` is even (`pairedRow_inRaster`). -/
theorem pairedRowStaysInRaster : Obligations.PairedRowStaysInRaster := by
  intro s x hx
  rw [← inRaster_iff] at hx
  exact ⟨(inRaster_iff s _).1 (pairedRow_inRaster s x hx), pairedRow_toNat x⟩

/-- Settles O34: a line above `VOFF` wraps to a number far beyond the raster. -/
theorem rowRangeIsOneSided : Obligations.RowRangeIsOneSided := by
  intro s l hv
  have hl := l.isLt
  rw [voffMax_eq, State.debug_eq] at hv
  rw [inRaster_iff, rowOperand, BitVec.toNat_sub, State.height_eq, height_eq]
  cases hd : s.strap.debug <;> rw [hd] at hv <;>
    simp only [if_true, Bool.false_eq_true, if_false] at hv ⊢ <;> omega

/-! ## Step 1 leaves what step 2 reads -/

@[simp] theorem State.detectFrame_strap (s : State) (l : Word) :
    (s.detectFrame l).strap = s.strap := by
  rcases s.detectFrame_cases l with ⟨-, e⟩ | ⟨-, e⟩ <;> rw [e]; rfl

@[simp] theorem State.detectFrame_voff (s : State) (l : Word) : (s.detectFrame l).voff = s.voff := by
  rcases s.detectFrame_cases l with ⟨-, e⟩ | ⟨-, e⟩ <;> rw [e]; rfl

@[simp] theorem State.detectFrame_hoff (s : State) (l : Word) : (s.detectFrame l).hoff = s.hoff := by
  rcases s.detectFrame_cases l with ⟨-, e⟩ | ⟨-, e⟩ <;> rw [e]; rfl

@[simp] theorem State.detectFrame_width (s : State) (l : Word) :
    (s.detectFrame l).width = s.width := by rw [State.width_eq, State.detectFrame_strap]; rfl

@[simp] theorem State.detectFrame_height (s : State) (l : Word) :
    (s.detectFrame l).height = s.height := by rw [State.height_eq, State.detectFrame_strap]; rfl

@[simp] theorem State.detectFrame_rowOperand (s : State) (l : Word) :
    rowOperand (s.detectFrame l) l = Claims.row s l := by
  rw [rowOperand, State.detectFrame_voff]

@[simp] theorem State.detectFrame_lookup (s : State) (l : Word) :
    (s.detectFrame l).mem.lookup = s.mem.lookup := by
  rcases s.detectFrame_cases l with ⟨-, e⟩ | ⟨-, e⟩ <;> rw [e]
  exact Memory.lookup_congr rfl rfl rfl

theorem State.readRaster_detectFrame (s : State) (l : Word) (r c : Nat) (hc : c < s.width) :
    (s.detectFrame l).mem.readRaster r c
      = if l.toNat < s.prevline.toNat ∧ r < s.height ∧ s.mem.readFilled r = false then 0
        else s.mem.readRaster r c := by
  have hiff := newFrame_iff s l
  rcases s.detectFrame_cases l with ⟨hn, e⟩ | ⟨hn, e⟩ <;> rw [e]
  · simp only [hiff.1 hn, true_and]
    exact s.readRaster_frameBoundary r c hc
  · have hge : ¬ l.toNat < s.prevline.toNat := by rw [← hiff, hn]; decide
    simp only [hge, false_and, if_false]

theorem State.readFilled_detectFrame (s : State) (l : Word) {r : Nat} (hr : r < s.height) :
    (s.detectFrame l).mem.readFilled r = true
      ↔ s.prevline.toNat ≤ l.toNat ∧ s.mem.readFilled r = true := by
  rw [← not_lt, ← newFrame_iff]
  rcases s.detectFrame_cases l with ⟨hn, e⟩ | ⟨hn, e⟩ <;> rw [e, hn]
  · rw [State.readFilled_frameBoundary, if_pos hr]
    simp
  · simp

/-! ## Every pixel and every flag -/

/-- Step 3 leaves the memory of step 2, which is the row pair or what step 1 left. -/
theorem State.rendered_mem_cases (s : State) (l : Word) :
    ((Claims.row s l).toNat < s.height ∧ (s.rendered l).mem = (s.detectFrame l).pairMem l)
      ∨ (¬ (Claims.row s l).toNat < s.height ∧ (s.rendered l).mem = (s.detectFrame l).mem) := by
  rcases (s.detectFrame l).placeLine_cases l with ⟨hr, e⟩ | ⟨hr, e⟩
  · rw [inRaster_iff, State.detectFrame_rowOperand, State.detectFrame_height] at hr
    exact .inl ⟨hr, by rw [State.rendered, e]; rfl⟩
  · rw [← Bool.not_eq_true, inRaster_iff, State.detectFrame_rowOperand, State.detectFrame_height] at hr
    exact .inr ⟨hr, by rw [State.rendered, e]; rfl⟩

theorem State.readRaster_rendered (s : State) (l : Word) (r c : Nat) (hc : c < s.width) :
    (s.rendered l).mem.readRaster r c
      = if (Claims.row s l).toNat < s.height ∧ r = (Claims.row s l ^^^ 1).toNat then
          fullPixel s.mem.lookup s.hoff c
        else if (Claims.row s l).toNat < s.height ∧ r = (Claims.row s l).toNat then
          dim (fullPixel s.mem.lookup s.hoff c)
        else if l.toNat < s.prevline.toNat ∧ r < s.height ∧ s.mem.readFilled r = false then 0
        else s.mem.readRaster r c := by
  rcases s.rendered_mem_cases l with ⟨hr, e⟩ | ⟨hr, e⟩ <;> rw [e, ← s.readRaster_detectFrame l r c hc]
  · rw [State.readRaster_pairMem _ _ _ _ (by simpa using hc)]
    simp only [hr, true_and, State.detectFrame_rowOperand, State.detectFrame_lookup,
      State.detectFrame_hoff, pairedRow]
  · simp only [hr, false_and, if_false]

theorem State.readFilled_rendered (s : State) (l : Word) {r : Nat} (hr : r < s.height) :
    (s.rendered l).mem.readFilled r = true
      ↔ Claims.written s l r ∨ (s.prevline.toNat ≤ l.toNat ∧ s.mem.readFilled r = true) := by
  rw [← s.readFilled_detectFrame l hr]
  rcases s.rendered_mem_cases l with ⟨hp, e⟩ | ⟨hp, e⟩ <;> rw [e]
  · rw [State.readFilled_pairMem, State.detectFrame_rowOperand]
    have hw : Claims.written s l r
        ↔ r = (Claims.row s l).toNat ∨ r = (pairedRow (Claims.row s l)).toNat :=
      ⟨fun h => h.2, fun h => ⟨hp, h⟩⟩
    rw [hw]
    split
    next h => exact iff_of_true rfl (.inl h)
    next h => exact (or_iff_right h).symm
  · have hw : ¬ Claims.written s l r := fun h => hp h.1
    exact (or_iff_right hw).symm

/-! ## The statements -/

/-- Settles O27: the mode test of rule R125 fails. -/
theorem renderlineUninitializedIsNoop : Obligations.RenderlineUninitializedIsNoop :=
  fun _ a l h v hm => exec_renderline_uninitialized a l h v hm

/-- Settles O28: in both operating states the next state names the line number alone. -/
theorem renderlineIgnoresThreeOperands : Obligations.RenderlineIgnoresThreeOperands := by
  intro s l a h v a' h' v'
  by_cases hm : s.mode = .uninitialized
  · exact ⟨_, exec_renderline_uninitialized a l h v hm, exec_renderline_uninitialized a' l h' v' hm⟩
  · have hm' := Mode.ne_uninitialized hm
    exact ⟨_, exec_renderline_initialized a l h v hm', exec_renderline_initialized a' l h' v' hm'⟩

theorem State.rendered_frameEvents_lt (s : State) (l : Word) :
    (s.rendered l).frameEvents
      = if l.toNat < s.prevline.toNat then s.frameEvents + 1 else s.frameEvents := by
  simp only [State.rendered_frameEvents, newFrame_iff]

/-- `State.rendered_eq` with the memory left as it is. -/
theorem State.rendered_eq_mem (s : State) (l : Word) :
    s.rendered l = { s with
      prevline := l
      frameEvents := (s.rendered l).frameEvents
      mem := (s.rendered l).mem } := by
  have hmem : (s.rendered l).mem = { s.mem with
      raster := (s.rendered l).mem.raster, filled := (s.rendered l).mem.filled } :=
    congrArg State.mem (s.rendered_eq l)
  exact (s.rendered_eq l).trans (by rw [← hmem])

/-- Settles O30: `State.rendered_eq` names the fields a scanline writes. -/
theorem renderlineFrame : Obligations.RenderlineFrame := by
  intro s a l h v hm
  refine ⟨_, exec_renderline_initialized a l h v hm, ?_, Memory.readSmp_congr (by simp),
    Memory.readPal_congr (by simp) (by simp), Memory.readDst_congr (by simp)⟩
  rw [← s.rendered_frameEvents_lt l]
  exact congrArg (State.respond · 0) (s.rendered_eq_mem l)

/-- Settles O31: the row pair over what step 1 left (`State.readRaster_rendered`). -/
theorem renderlineWritesRowPair : Obligations.RenderlineWritesRowPair :=
  fun s a l h v hm => ⟨_, exec_renderline_initialized a l h v hm, s.readRaster_rendered l⟩

/-- Settles O32: the pair's flags over what step 1 left (`State.readFilled_rendered`). -/
theorem renderlineSetsFlags : Obligations.RenderlineSetsFlags :=
  fun s a l h v hm =>
    ⟨_, exec_renderline_initialized a l h v hm, fun _ hr => s.readFilled_rendered l hr⟩

end Sys2Proof.Machine
end

section
/-! PROOFS. The invariant of spec/10_state.md rule R38: after reset, over a step, over a run; and what the
host reaches between two commands (spec/70_reset_and_hazards.md rules R210 and R216). -/

namespace Sys2Proof.Machine

/-! ## The invariant, by the fields it reads -/

/-- The invariant reads the strap, the offsets, the mode, the latched format and the memories. -/
theorem State.Inv.congr {s t : State} (h : s.Inv) (hstrap : t.strap = s.strap) (hhoff : t.hoff = s.hoff)
    (hvoff : t.voff = s.voff) (hmode : t.mode = s.mode) (hr : t.rmask = s.rmask)
    (hg : t.gmask = s.gmask) (hb : t.bmask = s.bmask) (hbpp : t.bpp = s.bpp) (hmem : t.mem = s.mem) :
    t.Inv := by
  obtain ⟨_, _, _, _, _, _, _, _, _, _, _, _, _, _, _, _, _, _⟩ := t
  subst hstrap hhoff hvoff hmode hr hg hb hbpp hmem
  exact ⟨h.strap, h.hoff, h.voff, h.bpp, h.palette, h.filled, h.memory⟩

theorem State.Inv.respond {s : State} (h : s.Inv) (w : Word) : (s.respond w).Inv :=
  h.congr rfl rfl rfl rfl rfl rfl rfl rfl rfl

theorem State.Inv.withPort {s : State} (h : s.Inv) (p : List Word) : State.Inv { s with port := p } :=
  h.congr rfl rfl rfl rfl rfl rfl rfl rfl rfl

theorem hoffOperand_le (d : Bool) (v : Word) : (hoffOperand d v).toNat ≤ hoffMax d := by
  have := hoffOperand_toNat d v
  omega

theorem voffOperand_le (d : Bool) (v : Word) : (voffOperand d v).toNat ≤ voffMax d := by
  have := voffOperand_toNat d v
  omega

/-- A state that is not Initialized meets the invariant by its offsets and its memories alone. -/
theorem State.inv_of_uninitialized {s : State} (hm : s.mode = .uninitialized)
    (hstrap : Strap.legal s.strap) (hhoff : s.hoff.toNat ≤ hoffMax s.debug)
    (hvoff : s.voff.toNat ≤ voffMax s.debug) (hmem : s.mem.wf s.debug) : s.Inv := by
  have hnot : s.mode ≠ .initialized := by rw [hm]; nofun
  exact ⟨hstrap, hhoff, hvoff, fun h => absurd h hnot, fun h => absurd h hnot,
    fun h => absurd h hnot, hmem⟩

/-! ## INITIALISE, a scanline and an extracted row keep it -/

theorem State.Inv.initialise {s : State} (h : s.Inv) : s.initialise.Inv := by
  rcases s.initialise_cases with ⟨-, e⟩ | ⟨-, e⟩ <;> rw [e] <;> refine State.Inv.respond ?_ _
  · exact ⟨h.strap, h.hoff, h.voff, fun _ => rfl,
      fun _ hwf c hc => State.initialised_palette s.query hwf hc,
      fun _ r hr => by rw [State.initialised_filled s.query hr]; rfl,
      State.initialised_memWf s.query h.memory⟩
  · exact State.inv_of_uninitialized rfl h.strap h.hoff h.voff (Memory.wf_reallocate h.memory)

/-- A scanline un-defines no flag: it sets the pair, and clears all of them at a boundary. -/
theorem State.rendered_filled {s : State} (l : Word)
    (h : ∀ r < s.height, (Cells.find s.mem.filled r).isSome = true) :
    ∀ r < s.height, (Cells.find (s.rendered l).mem.filled r).isSome = true := by
  intro r hr
  have hd : (Cells.find (s.detectFrame l).mem.filled r).isSome = true := by
    rcases s.detectFrame_cases l with ⟨-, e⟩ | ⟨-, e⟩ <;> rw [e]
    · rw [State.frameBoundary_mem, Memory.clearFilled_filled, Cells.find_rebuild, if_pos hr]; rfl
    · exact h r hr
  rcases s.rendered_mem_cases l with ⟨-, e⟩ | ⟨-, e⟩ <;> rw [e]
  · rw [State.pairMem, Memory.writePair, Memory.markFilled_filled, Cells.find_put]
    split
    · rfl
    · rw [Memory.markFilled_filled, Cells.find_put]
      split
      · rfl
      · exact hd
  · exact hd

theorem State.Inv.rendered {s : State} (h : s.Inv) (l : Word) : (s.rendered l).Inv := by
  rw [s.rendered_eq_mem l]
  refine ⟨h.strap, h.hoff, h.voff, h.bpp, fun hm hwf c hc => ?_,
    fun hm => State.rendered_filled l (h.filled hm), s.rendered_memWf l h.memory⟩
  show Cells.find (s.rendered l).mem.pal c = _
  rw [State.rendered_pal]
  exact h.palette hm hwf c hc

theorem State.Inv.extracted {s : State} (h : s.Inv) (r : Word) : (s.extracted r).Inv :=
  ⟨h.strap, h.hoff, h.voff, h.bpp, h.palette, h.filled, Memory.wf_writeDst _ h.memory⟩

/-- Every command keeps the invariant. -/
theorem State.Inv.exec {s t : State} {i : Instr} (h : s.Inv) (he : exec i s = .next t) : t.Inv := by
  cases effect_of_exec he with
  | answer w hinit hline => exact h.respond w
  | hoff d v =>
    exact State.Inv.respond (s := { s with hoff := hoffOperand s.debug v })
      ⟨h.strap, hoffOperand_le _ v, h.voff, h.bpp, h.palette, h.filled, h.memory⟩ 1
  | voff d v =>
    exact State.Inv.respond (s := { s with voff := voffOperand s.debug v })
      ⟨h.strap, h.hoff, voffOperand_le _ v, h.bpp, h.palette, h.filled, h.memory⟩ 1
  | fullscreen v hd => exact h.congr rfl rfl rfl rfl rfl rfl rfl rfl rfl
  | init => exact h.initialise
  | reinit v hm =>
    have hstored : (s.storeFullscreen v).Inv := h.congr rfl rfl rfl rfl rfl rfl rfl rfl rfl
    exact hstored.initialise
  | line a l h' v hm => exact (h.rendered l).respond 0
  | row hx => exact (h.extracted _).respond 0

/-! ## The host -/

theorem State.Inv.applyHost {s : State} (h : s.Inv) (a : HostAction) : (State.applyHost a s).Inv := by
  have hmem := State.applyHost_memWf a s h.memory
  by_cases ha : a = .hardReset
  · subst ha
    exact State.inv_of_uninitialized rfl h.strap h.strap.1 h.strap.2 hmem
  · have e := State.applyHost_block a s ha
    rw [e] at hmem ⊢
    exact ⟨h.strap, h.hoff, h.voff, h.bpp, h.palette, h.filled, hmem⟩

/-- Settles O57: a command keeps the invariant (`State.Inv.exec`), an illegal header changes the port and
the responses, and an action of the host keeps it (`State.Inv.applyHost`). -/
theorem stepKeepsInvariant : Obligations.StepKeepsInvariant := by
  intro s t h hstep
  rcases step_cases hstep with ⟨i, rest, -, he⟩ | ⟨why, rest, -, rfl⟩ | ⟨-, a, later, -, rfl⟩
  · exact ⟨(h.withPort rest).exec he, (propertiesPersist i _ t he).2.2.2⟩
  · exact ⟨h.congr rfl rfl rfl rfl rfl rfl rfl rfl rfl, rfl⟩
  · have hlater : State.Inv { s with host := later } := h.congr rfl rfl rfl rfl rfl rfl rfl rfl rfl
    exact ⟨hlater.applyHost a, State.applyHost_strap a _⟩

/-- Settles O55, field by field of `State.resetOf`. -/
theorem resetIsUninitialized : Obligations.ResetIsUninitialized :=
  ⟨fun _ => ⟨rfl, rfl, rfl, rfl, rfl, rfl, rfl, rfl, rfl, rfl⟩, rfl, rfl, rfl⟩

/-- Settles O56: the offsets are the legal reset parameters, and the memories are empty. -/
theorem resetMeetsInvariant : Obligations.ResetMeetsInvariant := by
  have hreset : ∀ p : Strap, Strap.legal p → (State.resetOf p).Inv := fun p hp =>
    State.inv_of_uninitialized rfl hp hp.1 hp.2 (Memory.wf_empty _ 0)
  exact ⟨hreset, hreset Strap.default (by decide)⟩

/-! ## A run -/

/-- A run of one more step that goes on takes a step that goes on. -/
theorem run_succ {M : Host.Core} {n : Nat} {s t : M.State} (h : M.run (n + 1) s = .next t) :
    ∃ s', M.step s = .next s' ∧ M.run n s' = .next t := by
  rw [Host.Core.run] at h
  cases hs : M.step s with
  | next s' => rw [hs] at h; exact ⟨s', rfl, h⟩
  | fault r => rw [hs] at h; cases h
  | refused r => rw [hs] at h; cases h

/-- Any number of steps keeps the invariant and the strap. -/
theorem State.Inv.run {n : Nat} {s t : State} (h : s.Inv)
    (hrun : Host.Core.run Sys2Proof.core n s = .next t) : t.Inv ∧ t.strap = s.strap := by
  induction n generalizing s with
  | zero => cases hrun; exact ⟨h, rfl⟩
  | succ n ih =>
    obtain ⟨s', hs, hrest⟩ := run_succ hrun
    obtain ⟨h', hstrap⟩ := stepKeepsInvariant s s' h hs
    obtain ⟨ht, hstrap'⟩ := ih h' hrest
    exact ⟨ht, hstrap'.trans hstrap⟩

/-- Settles O58: the invariant holds at the end of the run (`State.Inv.run`), and GETPROP answers the
offsets it bounds. -/
theorem offsetsStayInRange : Obligations.OffsetsStayInRange := by
  intro n s t h hrun
  obtain ⟨ht, hstrap⟩ := h.run hrun
  have hhoff := ht.hoff
  have hvoff := ht.voff
  rw [State.debug_eq, hstrap, hoffMax_eq] at hhoff
  rw [State.debug_eq, hstrap, voffMax_eq] at hvoff
  exact ⟨t.hoff, t.voff, exec_getpropHoff t, hhoff, exec_getpropVoff t, hvoff⟩

/-! ## Between two commands -/

/-- What an action that is no hardware reset leaves (rules R63 and R216). -/
theorem State.applyHost_frame {a : HostAction} (s : State) (ha : a ≠ .hardReset) :
    let t := State.applyHost a s
    t.mode = s.mode ∧ t.hoff = s.hoff ∧ t.voff = s.voff ∧ t.fullscreen = s.fullscreen
    ∧ t.fsActive = s.fsActive ∧ t.prevline = s.prevline ∧ t.rmask = s.rmask
    ∧ t.gmask = s.gmask ∧ t.bmask = s.bmask ∧ t.bpp = s.bpp ∧ t.frameEvents = s.frameEvents
    ∧ (∀ c, t.mem.readPal c = s.mem.readPal c)
    ∧ (∀ r c, t.mem.readRaster r c = s.mem.readRaster r c)
    ∧ (∀ r, t.mem.readFilled r = s.mem.readFilled r) := by
  intro t
  have e : t = _ := State.applyHost_block a s ha
  rw [e]
  exact ⟨rfl, rfl, rfl, rfl, rfl, rfl, rfl, rfl, rfl, rfl, rfl, fun _ => rfl, fun _ _ => rfl,
    fun _ => rfl⟩

theorem State.applyHost_host (a : HostAction) (s : State) : (State.applyHost a s).host = s.host := by
  by_cases ha : a = .hardReset
  · rw [ha]; rfl
  · rw [State.applyHost_block a s ha]

theorem State.applyHost_responses (a : HostAction) (s : State) :
    (State.applyHost a s).responses = s.responses := by
  by_cases ha : a = .hardReset
  · rw [ha]; rfl
  · rw [State.applyHost_block a s ha]

/-- Settles O59: with an empty port the step is the host's action, which reaches the port, the answer
and the host's two memories (`State.applyHost_frame`), or resets the block. -/
theorem hostReachesBlockThroughPins : Obligations.HostReachesBlockThroughPins := by
  intro s a later hport hhost
  have hf : fetch s.port = .incomplete := by rw [hport]; rfl
  refine ⟨_, (step_of_incomplete hf).trans (hostTurn_of_host hhost), State.applyHost_host a _,
    State.applyHost_strap a _, State.applyHost_responses a _, State.applyHost_frame _, ?_⟩
  rintro rfl
  exact ⟨rfl, rfl, rfl, rfl, rfl, rfl, rfl, rfl, fun _ => rfl, fun _ => rfl⟩

end Sys2Proof.Machine
end

section
/-! PROOFS. Byte lanes of masks and of packed colours, the palette, and the Channel Remapper
(spec/40_palette.md rules R91 to R96, spec/43_channel_remapper.md rules R141 to R150). -/

namespace Sys2Proof

@[simp] theorem lane_and (j : Nat) (x y : Word) : lane j (x &&& y) = lane j x &&& lane j y := by
  ext i hi; simp [lane]

theorem lane_not (x : Word) {j : Nat} (hj : j < 4) : lane j (~~~x) = ~~~lane j x := by
  ext i hi
  have hbit : 8 * j + i < 32 := by omega
  simp [lane, hbit]

namespace Machine

/-! ## Masks -/

theorem lane_laneMask {j k : Nat} (hj : j < 4) (hk : k < 4) :
    lane j (laneMask k) = if j = k then 0xFF else 0 :=
  lane_shiftLeft 0xFF hj hk (by decide)

/-- Reading a lane through its mask. -/
theorem and_laneMask_shiftRight (x : Word) {k : Nat} (hk : k < 4) :
    (x &&& laneMask k) >>> (8 * k) = (lane k x).setWidth 32 := by
  have hmask : laneMask k >>> (8 * k) = 0xFF := by interval_cases k <;> decide
  rw [BitVec.ushiftRight_and_distrib, hmask, shiftRight_lane]

theorem toNat_ofNat_byte {v : Nat} (hv : v < 256) : (BitVec.ofNat 8 v).toNat = v := by
  rw [BitVec.toNat_ofNat, Nat.mod_eq_of_lt hv]

/-! ## The palette -/

/-- One channel of a palette entry read back: the component that stands in its lane. -/
theorem channel_toNat {x : Word} {k v : Nat} (hk : k < 4) (hv : v < 256)
    (hlane : lane k x = BitVec.ofNat 8 v) : ((x &&& laneMask k) >>> ctz (laneMask k)).toNat = v := by
  rw [ctz_laneMask hk, and_laneMask_shiftRight x hk, hlane, BitVec.toNat_setWidth,
    toNat_ofNat_byte hv, Nat.mod_eq_of_lt (by omega)]

/-- The three channel lanes of a palette entry hold the three components. -/
theorem channelLanes_paletteEntry {kr kg kb : Nat} (hr : kr < 4) (hg : kg < 4) (hb : kb < 4)
    (hrg : kr ≠ kg) (hgb : kg ≠ kb) (hrb : kr ≠ kb) (c : Byte) :
    lane kr (paletteEntry (laneMask kr) (laneMask kg) (laneMask kb) c) = BitVec.ofNat 8 (expandRed c)
    ∧ lane kg (paletteEntry (laneMask kr) (laneMask kg) (laneMask kb) c)
      = BitVec.ofNat 8 (expandGreen c)
    ∧ lane kb (paletteEntry (laneMask kr) (laneMask kg) (laneMask kb) c)
      = BitVec.ofNat 8 (expandBlue c) := by
  have hlane := fun {j} => lane_paletteEntry (j := j) hr hg hb hrg hgb hrb c
  refine ⟨?_, ?_, ?_⟩
  · rw [hlane hr, if_pos rfl]
  · rw [hlane hg, if_neg hrg.symm, if_pos rfl]
  · rw [hlane hb, if_neg hrb.symm, if_neg hgb.symm, if_pos rfl]

/-- Settles O36: each component stands in its channel's lane. -/
theorem paletteRoundTrip : Obligations.PaletteRoundTrip := by
  intro r g b c hwf
  obtain ⟨kr, kg, kb, hr, hg, hb, hrg, hgb, hrb, rfl, rfl, rfl⟩ := wellFormedFormat_lanes hwf
  obtain ⟨hred, hgreen, hblue⟩ := channelLanes_paletteEntry hr hg hb hrg hgb hrb c
  exact ⟨channel_toNat hr (expandRed_lt c) hred, channel_toNat hg (expandGreen_lt c) hgreen,
    channel_toNat hb (expandBlue_lt c) hblue⟩

/-- The union of the masks of a format has the format's three lanes. -/
theorem lane_masks {kr kg kb : Nat} (hr : kr < 4) (hg : kg < 4) (hb : kb < 4) {j : Nat} (hj : j < 4) :
    lane j (laneMask kr ||| laneMask kg ||| laneMask kb)
      = if j = kr ∨ j = kg ∨ j = kb then 0xFF else 0 := by
  rw [lane_or, lane_or, lane_laneMask hj hr, lane_laneMask hj hg, lane_laneMask hj hb]
  split_ifs <;> simp_all

/-- Settles O37, lane by lane: a lane of the format is masked out, and the padding lane is zero. -/
theorem palettePaddingIsZero : Obligations.PalettePaddingIsZero := by
  intro r g b c hwf
  obtain ⟨kr, kg, kb, hr, hg, hb, hrg, hgb, hrb, rfl, rfl, rfl⟩ := wellFormedFormat_lanes hwf
  refine word_eq_of_lanes fun j hj => ?_
  rw [lane_and, lane_not _ hj, lane_masks hr hg hb hj, lane_paletteEntry hr hg hb hrg hgb hrb c hj,
    lane_zero]
  by_cases hformat : j = kr ∨ j = kg ∨ j = kb
  · rw [if_pos hformat]
    exact BitVec.and_zero
  · obtain ⟨h1, h2, h3⟩ := not_or.1 hformat |>.imp_right not_or.1
    rw [if_neg h1, if_neg h2, if_neg h3]
    exact BitVec.zero_and

/-! ## Packed colours -/

theorem lane_byte_shiftLeft (y : Byte) {j k : Nat} (hj : j < 4) (hk : k < 4) :
    lane j (y.setWidth 32 <<< (8 * k)) = if j = k then y else 0 := by
  rw [← BitVec.ofNat_toNat 32 y, lane_shiftLeft _ hj hk y.isLt, BitVec.ofNat_toNat, BitVec.setWidth_eq]

/-- Packed components stand in lanes 2, 1 and 0. -/
theorem packRgb_eq_shifts (r g b : Byte) :
    packRgb r g b = (r.setWidth 32 <<< (8 * 2)) ||| (g.setWidth 32 <<< (8 * 1))
      ||| (b.setWidth 32 <<< (8 * 0)) := by
  rw [packRgb, Nat.mul_zero, BitVec.shiftLeft_zero]

theorem lane_packRgb (r g b : Byte) {j : Nat} (hj : j < 4) :
    lane j (packRgb r g b)
      = (if j = 2 then r else 0) ||| (if j = 1 then g else 0) ||| (if j = 0 then b else 0) := by
  rw [packRgb_eq_shifts, lane_or, lane_or, lane_byte_shiftLeft r hj (by decide),
    lane_byte_shiftLeft g hj (by decide), lane_byte_shiftLeft b hj (by decide)]

theorem packRgb_toNat (r g b : Byte) :
    (packRgb r g b).toNat = 65536 * r.toNat + 256 * g.toNat + b.toNat := by
  rw [word_toNat_lanes, lane_packRgb r g b (by decide), lane_packRgb r g b (by decide),
    lane_packRgb r g b (by decide), lane_packRgb r g b (by decide)]
  simp
  omega

theorem packRgb_eq_rgb (r g b : Byte) : packRgb r g b = Claims.rgb r.toNat g.toNat b.toNat := by
  apply BitVec.eq_of_toNat_eq
  have := r.isLt
  have := g.isLt
  have := b.isLt
  rw [packRgb_toNat, BitVec.toNat_ofNat]
  omega

/-- The remapper packs three bytes, whatever the shifts. -/
theorem extractPixel_eq_packRgb (rsh gsh bsh : Nat) (x : Word) :
    extractPixel rsh gsh bsh x = packRgb (lane 0 (x >>> rsh)) (lane 0 (x >>> gsh)) (lane 0 (x >>> bsh)) := by
  have hbyte : ∀ y : Word, y &&& 0xFF = (lane 0 y).setWidth 32 := fun y => shiftRight_lane y 0
  rw [extractPixel, hbyte, hbyte, hbyte, packRgb]

theorem extractPixel_lt (rsh gsh bsh : Nat) (x : Word) :
    (extractPixel rsh gsh bsh x).toNat < 2 ^ 24 := by
  rw [extractPixel_eq_packRgb, packRgb_toNat]
  have := (lane 0 (x >>> rsh)).isLt
  have := (lane 0 (x >>> gsh)).isLt
  have := (lane 0 (x >>> bsh)).isLt
  omega

/-- Settles O52: the remapper reads the lanes that the palette filled. -/
theorem extractionUndoesPalette : Obligations.ExtractionUndoesPalette := by
  intro r g b c hwf
  obtain ⟨kr, kg, kb, hr, hg, hb, hrg, hgb, hrb, rfl, rfl, rfl⟩ := wellFormedFormat_lanes hwf
  obtain ⟨hred, hgreen, hblue⟩ := channelLanes_paletteEntry hr hg hb hrg hgb hrb c
  rw [extractPixel_lanes hr hg hb, hred, hgreen, hblue, packRgb_eq_rgb,
    toNat_ofNat_byte (expandRed_lt c), toNat_ofNat_byte (expandGreen_lt c),
    toNat_ofNat_byte (expandBlue_lt c)]

/-- A lane mask keeps its lane in place. -/
theorem and_laneMask (x : Word) {k : Nat} (hk : k < 4) :
    x &&& laneMask k = (lane k x).setWidth 32 <<< (8 * k) := by
  refine word_eq_of_lanes fun j hj => ?_
  rw [lane_and, lane_laneMask hj hk, lane_byte_shiftLeft _ hj hk]
  split
  next h => rw [h]; exact BitVec.and_allOnes
  next => exact BitVec.and_zero

/-- Settles O51: the masks are lane masks, so both sides pack the same three lanes. -/
theorem fastPathsAgree : Obligations.FastPathsAgree := by
  intro src
  have hextract := fun {kr kg kb} (hr : kr < 4) (hg : kg < 4) (hb : kb < 4) =>
    extractPixel_lanes hr hg hb src
  refine ⟨(hextract (by decide : 2 < 4) (by decide : 1 < 4) (by decide : 0 < 4)).trans ?_,
    (hextract (by decide : 0 < 4) (by decide : 1 < 4) (by decide : 2 < 4)).trans ?_⟩
  · have hunion : (0x00FFFFFF : Word) = laneMask 2 ||| laneMask 1 ||| laneMask 0 := by decide
    rw [hunion, BitVec.and_or_distrib_left, BitVec.and_or_distrib_left, and_laneMask _ (by decide),
      and_laneMask _ (by decide), and_laneMask _ (by decide), packRgb_eq_shifts]
  · have hlow : src &&& 0xFF = (lane 0 src).setWidth 32 := shiftRight_lane src 0
    have hmid : src &&& 0xFF00 = (lane 1 src).setWidth 32 <<< 8 := and_laneMask src (k := 1) (by decide)
    have hhigh : (src >>> 16) &&& 0xFF = (lane 2 src).setWidth 32 := shiftRight_lane src 2
    rw [hlow, hmid, hhigh, packRgb]

/-! ## The bit-scan and the shift (rules R12, R143 and R144) -/

theorem exists_getLsbD {m : Word} (h : m ≠ 0) : ∃ i < 32, m.getLsbD i = true := by
  by_contra hnone
  push Not at hnone
  exact h (BitVec.eq_of_getLsbD_eq fun i hi => by simpa using hnone i hi)

/-- The bit-scan of a non-zero mask finds a bit. -/
theorem ctz_spec {m : Word} (h : m ≠ 0) :
    ctz m < 32 ∧ m.getLsbD (ctz m) = true ∧ ∀ i < ctz m, m.getLsbD i = false := by
  obtain ⟨i, hi, hbit⟩ := exists_getLsbD h
  have hsome : ((List.range 32).find? fun i => m.getLsbD i).isSome = true :=
    List.find?_isSome.2 ⟨i, List.mem_range.2 hi, hbit⟩
  obtain ⟨k, hk⟩ := Option.isSome_iff_exists.1 hsome
  have hctz : ctz m = k := by rw [ctz, hk, Option.getD_some]
  obtain ⟨hset, hmem, hclear⟩ := List.find?_range_eq_some.1 hk
  rw [hctz]
  exact ⟨List.mem_range.1 hmem, hset, fun j hj => by simpa using hclear j hj⟩

/-- Settles O47, by `ctz_spec`. -/
theorem ctzIsLowestSetBit : Obligations.CtzIsLowestSetBit := fun _ h => (ctz_spec h).2

theorem shiftOf_eq {m : Word} (h : m ≠ 0) : shiftOf m = max (ctz m) (m.toNat.log2 - 7) := by
  rw [shiftOf, if_neg h, narrow_eq 24 _ _ (BitVec.isLt _), BitVec.toNat_ushiftRight]
  have hlog : (m.toNat >>> ctz m).log2 = m.toNat.log2 - ctz m := by
    rw [Nat.shiftRight_eq_div_pow, Nat.log2_eq_log_two, Nat.log2_eq_log_two, Nat.log_div_base_pow]
  omega

/-- Settles O48: `narrow_eq` counts the turns of the loop. -/
theorem shiftOfClosedForm : Obligations.ShiftOfClosedForm := by
  refine ⟨fun m => ?_, fun m => shiftOf_eq⟩
  by_cases h : m = 0
  · rw [h]
    exact Nat.le_of_lt_succ shiftOf_zero_lt
  · obtain ⟨hctz, -⟩ := ctz_spec h
    have hlog : m.toNat.log2 < 32 := (Nat.log2_lt (BitVec.toNat_ne.1 h)).2 m.isLt
    rw [shiftOf_eq h]
    omega

/-! ## EXTRACTROW -/

theorem extractable_iff (s : State) (r : Word) :
    s.extractable r = true ↔ s.mode = .initialized ∧ s.bpp = 4 ∧ r.toNat < s.height := by
  rw [State.extractable, Bool.and_eq_true, Bool.and_eq_true, decide_eq_true_iff, decide_eq_true_iff,
    inRaster_iff, and_assoc]

/-- A row whose tests pass, entry by entry. -/
theorem State.readDst_extracted (s : State) (r : Word) (i : Nat) :
    (s.extracted r).mem.readDst i
      = if i < s.width then s.remap (s.mem.readRaster r.toNat i) else s.mem.readDst i :=
  Memory.readDst_writeDst _ _ _ _

/-- Settles O49: the command writes `DST` alone (`State.extracted`), with the formula of rule R145 in
the row (`State.readDst_extracted`). -/
theorem extractrowFillsDst : Obligations.ExtractrowFillsDst := by
  intro s r hm hbpp hr
  refine ⟨_, exec_extractrow_extractable ((extractable_iff s r).2 ⟨hm, hbpp, hr⟩), rfl,
    fun i hi => ?_, fun i hi => ?_, fun _ => rfl, fun _ => rfl, fun _ _ => rfl, fun _ => rfl⟩
  · rw [State.respond_mem, State.readDst_extracted, if_pos hi]
    exact ⟨rfl, extractPixel_lt _ _ _ _⟩
  · rw [State.respond_mem, State.readDst_extracted, if_neg (by omega)]

/-- Settles O50: each premise fails one of the three tests (`extractable_iff`). -/
theorem extractrowSilentNoop : Obligations.ExtractrowSilentNoop := by
  intro s r hfail
  refine exec_extractrow_noop ?_
  rw [← Bool.not_eq_true, extractable_iff]
  rintro ⟨hm, hbpp, hr⟩
  rcases hfail with h | h | h
  · rw [hm] at h; cases h
  · exact h hbpp
  · omega

end Machine

end Sys2Proof
end

section
/-! PROOFS. The Horizontal Resampler (spec/41_resampler.md rules R101 to R112). -/

namespace Sys2Proof.Machine

/-! ## The weighted sum, term by term -/

/-- The five terms of a weighted sum. -/
theorem weighted_five (look : Word → Word) (a b c d e k : Word) :
    weighted look [a, b, c, d, e] k
      = a * tap look k + b * tap look (k + 1) + c * tap look (k + 2) + d * tap look (k + 3)
        + e * tap look (k + 4) := by
  have h2 : k + 1 + 1 = k + 2 := BitVec.add_assoc k 1 1
  have h3 : k + 2 + 1 = k + 3 := BitVec.add_assoc k 2 1
  have h4 : k + 3 + 1 = k + 4 := BitVec.add_assoc k 3 1
  simp only [weighted, h2, h3, h4]
  ring

/-- Settles O39: the weights and the window start of each position of a triple. -/
theorem fullPixelIsFiveTapSum : Obligations.FullPixelIsFiveTapSum := by
  intro look off t N sp
  have hdiv : ∀ p < 3, (3 * t + p) / 3 = t ∧ (3 * t + p) % 3 = p := fun p hp => by omega
  have hpixel : ∀ p < 3, fullPixel look off (3 * t + p) = weighted look (weights p) (sp + tapStart p) := by
    intro p hp
    rw [fullPixel, windowStart, (hdiv p hp).1, (hdiv p hp).2]
  have hindex : ∀ a b c : Word, a + b = c → sp + a + b = sp + c := fun a b c h => by
    rw [BitVec.add_assoc, h]
  have hprev : sp + -1 = sp - 1 := (BitVec.sub_eq_add_neg sp 1).symm
  have hbase : sp + -1 + 1 = sp := by rw [hindex (-1) 1 0 (by decide)]; exact BitVec.add_zero sp
  refine ⟨(hpixel 0 (by decide)).trans ((weighted_five look 4 4 4 4 1 (sp + -1)).trans ?_),
    (hpixel 1 (by decide)).trans ((weighted_five look 2 4 5 4 2 (sp + 1)).trans ?_),
    (hpixel 2 (by decide)).trans ((weighted_five look 1 4 4 4 4 (sp + 3)).trans ?_)⟩
  · rw [hbase, hindex (-1) 2 1 (by decide), hindex (-1) 3 2 (by decide), hindex (-1) 4 3 (by decide),
      hprev]
    rfl
  · rw [hindex 1 1 2 (by decide), hindex 1 2 3 (by decide), hindex 1 3 4 (by decide),
      hindex 1 4 5 (by decide)]
    rfl
  · rw [hindex 3 1 4 (by decide), hindex 3 2 5 (by decide), hindex 3 3 6 (by decide),
      hindex 3 4 7 (by decide)]
    rfl

/-- The weights of a position are five. -/
theorem weights_length (p : Nat) : (weights p).length = 5 := by
  match p with
  | 0 => rfl
  | 1 => rfl
  | _ + 2 => rfl

theorem weights_eq_getD (p : Nat) : weights p
    = [(weights p).getD 0 0, (weights p).getD 1 0, (weights p).getD 2 0, (weights p).getD 3 0,
       (weights p).getD 4 0] := by
  match p with
  | 0 => rfl
  | 1 => rfl
  | _ + 2 => rfl

theorem laneSum_five (j : Nat) (look : Word → Word) (a b c d e k : Word) :
    laneSum j look [a, b, c, d, e] k
      = a.toNat * ((lane j (look k)).toNat / 16) + b.toNat * ((lane j (look (k + 1))).toNat / 16)
        + c.toNat * ((lane j (look (k + 2))).toNat / 16)
        + d.toNat * ((lane j (look (k + 3))).toNat / 16)
        + e.toNat * ((lane j (look (k + 4))).toNat / 16) := by
  have h2 : k + 1 + 1 = k + 2 := BitVec.add_assoc k 1 1
  have h3 : k + 2 + 1 = k + 3 := BitVec.add_assoc k 2 1
  have h4 : k + 3 + 1 = k + 4 := BitVec.add_assoc k 3 1
  simp only [laneSum, h2, h3, h4]
  ring

/-- Settles O41: the lanes do not carry (`lane_fullPixel`), and the five terms are added in the lane. -/
theorem fullPixelLanesAreIndependent : Obligations.FullPixelLanesAreIndependent := by
  intro look off i j hj w p
  rw [lane_fullPixel look off i hj, weights_eq_getD, laneSum_five]
  have hfirst : p 0 = (lane j (look (windowStart off i))).toNat / 16 :=
    congrArg (fun k => (lane j (look k)).toNat / 16) (BitVec.add_zero _)
  rw [hfirst]
  rfl

/-- Settles O42: `lane_dim`, and a lane is at most 255. -/
theorem dimmedLanesAreIndependent : Obligations.DimmedLanesAreIndependent := by
  intro x j hj
  have := (lane j x).isLt
  rw [lane_dim x hj]
  exact ⟨rfl, by omega⟩

/-- A solid line adds the weights. -/
theorem laneSum_const (j : Nat) (p : Word) (ws : List Word) (k : Word) :
    laneSum j (fun _ => p) ws k = (ws.map BitVec.toNat).sum * ((lane j p).toNat / 16) := by
  induction ws generalizing k with
  | nil => simp [laneSum]
  | cons w ws ih => rw [laneSum, ih, List.map_cons, List.sum_cons, Nat.add_mul]

theorem lane_fullPixel_const (p off : Word) (i : Nat) {j : Nat} (hj : j < 4) :
    (lane j (fullPixel (fun _ => p) off i)).toNat = 17 * ((lane j p).toNat / 16) := by
  rw [lane_fullPixel _ off i hj, laneSum_const, weights_sum]

/-- Settles O43: the weights of every position sum to 17. -/
theorem solidLineKeepsUpperNibble : Obligations.SolidLineKeepsUpperNibble :=
  fun p off i _ hj => lane_fullPixel_const p off i hj

/-- The code `0xFF` fills the three channel lanes, and no other (rule R91). -/
theorem paletteEntry_white {r g b : Word} (hwf : wellFormedFormat r g b = true) :
    paletteEntry r g b 0xFF = r ||| g ||| b := by
  obtain ⟨kr, kg, kb, hr, hg, hb, hrg, hgb, hrb, rfl, rfl, rfl⟩ := wellFormedFormat_lanes hwf
  rw [paletteEntry, ctz_laneMask hr, ctz_laneMask hg, ctz_laneMask hb]
  rfl

/-- A lane of the union of a format's masks is full or empty. -/
theorem lane_masks_full {r g b : Word} (hwf : wellFormedFormat r g b = true) {j : Nat} (hj : j < 4) :
    lane j (r ||| g ||| b) = 0xFF ∨ lane j (r ||| g ||| b) = 0 := by
  obtain ⟨kr, kg, kb, hr, hg, hb, -, -, -, rfl, rfl, rfl⟩ := wellFormedFormat_lanes hwf
  rw [lane_masks hr hg hb hj]
  split
  · exact .inl rfl
  · exact .inr rfl

theorem fullPixel_white {r g b : Word} (hwf : wellFormedFormat r g b = true) (off : Word) (i : Nat) :
    fullPixel (fun _ => paletteEntry r g b 0xFF) off i = r ||| g ||| b := by
  rw [paletteEntry_white hwf]
  refine word_eq_of_lanes fun j hj => BitVec.eq_of_toNat_eq ?_
  rw [lane_fullPixel_const _ off i hj]
  rcases lane_masks_full hwf hj with h | h <;> rw [h] <;> rfl

theorem dim_masks {r g b : Word} (hwf : wellFormedFormat r g b = true) :
    dim (r ||| g ||| b) = (r ||| g ||| b) &&& 0xBDBDBDBD := by
  refine word_eq_of_lanes fun j hj => BitVec.eq_of_toNat_eq ?_
  have hconst : lane j 0xBDBDBDBD = 0xBD := by interval_cases j <;> decide
  rw [lane_dim _ hj, lane_and, hconst]
  rcases lane_masks_full hwf hj with h | h <;> rw [h] <;> rfl

/-- Settles O44: white fills the format's lanes, where 17 * 15 = 255 and 255 / 4 * 3 = 0xBD. -/
theorem allWhiteIsFullIntensity : Obligations.AllWhiteIsFullIntensity := by
  intro r g b off i hwf
  rw [fullPixel_white hwf]
  exact ⟨rfl, dim_masks hwf⟩

/-! ## What a pixel reads (rules R109 and R110) -/

/-- Weighted sums that look up the same pixels are equal. -/
theorem weighted_congr {look look' : Word → Word} (ws : List Word) (k k' : Word)
    (h : ∀ q < ws.length, look (k + BitVec.ofNat 32 q) = look' (k' + BitVec.ofNat 32 q)) :
    weighted look ws k = weighted look' ws k' := by
  induction ws generalizing k k' with
  | nil => rfl
  | cons w ws ih =>
    have hfirst : look k = look' k' := by simpa using h 0 (by simp)
    have hrest : weighted look ws (k + 1) = weighted look' ws (k' + 1) := by
      refine ih _ _ fun q hq => ?_
      have hnext : ∀ x : Word, x + 1 + BitVec.ofNat 32 q = x + BitVec.ofNat 32 (q + 1) := fun x => by
        rw [Nat.add_comm q 1, BitVec.ofNat_add, ← BitVec.add_assoc]; rfl
      rw [hnext, hnext]
      exact h (q + 1) (by simpa using hq)
    rw [weighted, weighted, hrest, tap, tap, hfirst]

theorem fullPixel_congr {look look' : Word → Word} {off off' : Word} {i : Nat}
    (h : ∀ q < 5, look (windowStart off i + BitVec.ofNat 32 q)
      = look' (windowStart off' i + BitVec.ofNat 32 q)) :
    fullPixel look off i = fullPixel look' off' i :=
  weighted_congr _ _ _ (by rwa [weights_length])

/-- The window of a pixel of `len`, in the cyclic window of the call (rule R110). -/
theorem windowStart_mem (off : Word) {i len q : Nat} (hi : i < len / 3 * 3) (hq : q < 5) :
    ∃ k < 7 * (len / 3) + 2, windowStart off i + BitVec.ofNat 32 q = off - 1 + BitVec.ofNat 32 k := by
  have htap : ∃ s ≤ 4, tapStart (i % 3) = BitVec.ofNat 32 s - 1 := by
    match i % 3 with
    | 0 => exact ⟨0, by decide, rfl⟩
    | 1 => exact ⟨2, by decide, rfl⟩
    | _ + 2 => exact ⟨4, by decide, rfl⟩
  obtain ⟨s, hs, htap⟩ := htap
  refine ⟨7 * (i / 3) + s + q, by omega, ?_⟩
  rw [windowStart, htap, BitVec.ofNat_add, BitVec.ofNat_add]
  ring

/-- Settles O45: every window of a pixel lies in the window of the call (`windowStart_mem`). -/
theorem resamplerReadsItsWindowOnly : Obligations.ResamplerReadsItsWindowOnly := by
  intro m m' off len hpal hsmp
  have hpixel : ∀ i < pixelCount len, fullPixel m.lookup off i = fullPixel m'.lookup off i := by
    intro i hi
    refine fullPixel_congr fun q hq => ?_
    obtain ⟨k, hk, e⟩ := windowStart_mem off hi hq
    rw [e, Memory.lookup_eq, Memory.lookup_eq, hsmp k hk, hpal]
  have hfst : (resample m.lookup off len).1 = (resample m'.lookup off len).1 := by
    rw [resample_fst, resample_fst]
    exact List.map_congr_left fun i hi => hpixel i (List.mem_range.1 hi)
  refine ⟨Prod.ext hfst ?_, resample_fst_length _ _ _, resample_snd_length _ _ _⟩
  rw [resample_snd, resample_snd, hfst]

/-- Settles O46: a lookup reads its index modulo 2048, so congruent offsets have the same windows. -/
theorem offsetWrapsModulo2048 : Obligations.OffsetWrapsModulo2048 := by
  intro m off off' i hoff
  refine fullPixel_congr fun q _ => ?_
  have hindex : (windowStart off i + BitVec.ofNat 32 q).toNat % 2048
      = (windowStart off' i + BitVec.ofNat 32 q).toNat % 2048 := by
    simp only [windowStart, BitVec.toNat_add]
    omega
  rw [Memory.lookup_eq, Memory.lookup_eq, hindex]

end Sys2Proof.Machine
end

section
/-! PROOFS. A line rendered and its rows extracted (spec/42_frame_assembler.md rules R133 and R134,
spec/43_channel_remapper.md rule R150). -/

namespace Sys2Proof.Machine

/-! ## Rows read back through EXTRACTROW -/

/-- An extraction whose tests pass. -/
theorem exec_extractrow_row {s : State} {r : Word} (hm : s.mode = .initialized) (hbpp : s.bpp = 4)
    (hr : r.toNat < s.height) : exec (.extractrow r) s = .next ((s.extracted r).respond 0) :=
  exec_extractrow_extractable ((extractable_iff s r).2 ⟨hm, hbpp, hr⟩)

@[simp] theorem State.rendered_width (s : State) (l : Word) : (s.rendered l).width = s.width := by
  rw [State.width_eq, State.rendered_strap]; rfl

@[simp] theorem State.rendered_height (s : State) (l : Word) : (s.rendered l).height = s.height := by
  rw [State.height_eq, State.rendered_strap]; rfl

/-- A scanline leaves the latched masks, so the remapper's formula. -/
@[simp] theorem State.rendered_remap (s : State) (l x : Word) : (s.rendered l).remap x = s.remap x := by
  simp only [State.remap, State.rendered_rmask, State.rendered_gmask, State.rendered_bmask]

@[simp] theorem State.respond_width (s : State) (v : Word) : (s.respond v).width = s.width := rfl
@[simp] theorem State.respond_height (s : State) (v : Word) : (s.respond v).height = s.height := rfl
@[simp] theorem State.respond_remap (s : State) (v x : Word) : (s.respond v).remap x = s.remap x := rfl

@[simp] theorem State.extracted_width (s : State) (r : Word) : (s.extracted r).width = s.width := rfl
@[simp] theorem State.extracted_height (s : State) (r : Word) : (s.extracted r).height = s.height := rfl
@[simp] theorem State.extracted_remap (s : State) (r x : Word) :
    (s.extracted r).remap x = s.remap x := rfl
@[simp] theorem State.readRaster_extracted (s : State) (r : Word) (q c : Nat) :
    (s.extracted r).mem.readRaster q c = s.mem.readRaster q c := rfl

theorem pairedRow_lt {s : State} {x : Word} (hx : x.toNat < s.height) : (x ^^^ 1).toNat < s.height :=
  (pairedRowStaysInRaster s x hx).1

/-- The two rows of a placed line: the full pixels in the paired row, the dimmed ones in its own. -/
theorem State.readRaster_rendered_pair {s : State} {l : Word}
    (hrow : (Claims.row s l).toNat < s.height) {i : Nat} (hi : i < s.width) :
    (s.rendered l).mem.readRaster (Claims.row s l ^^^ 1).toNat i = fullPixel s.mem.lookup s.hoff i
    ∧ (s.rendered l).mem.readRaster (Claims.row s l).toNat i
      = dim (fullPixel s.mem.lookup s.hoff i) := by
  have hne := pairedRow_ne (Claims.row s l)
  rw [s.readRaster_rendered l _ i hi, s.readRaster_rendered l _ i hi, if_pos ⟨hrow, rfl⟩,
    if_neg (fun h => hne h.2.symm), if_pos ⟨hrow, rfl⟩]
  exact ⟨rfl, rfl⟩

/-- A line placed in the raster and its two rows extracted: the remapped full and dimmed pixels. -/
theorem exec_line_rows {s : State} (a l h v : Word) (hm : s.mode = .initialized) (hbpp : s.bpp = 4)
    (hrow : (Claims.row s l).toNat < s.height) :
    ∃ u w x, exec (.renderline a l h v) s = .next u
      ∧ exec (.extractrow (Claims.row s l ^^^ 1)) u = .next w
      ∧ (∀ i < s.width, w.mem.readDst i = s.remap (fullPixel s.mem.lookup s.hoff i))
      ∧ exec (.extractrow (Claims.row s l)) w = .next x
      ∧ (∀ i < s.width, x.mem.readDst i = s.remap (dim (fullPixel s.mem.lookup s.hoff i))) := by
  refine ⟨_, _, _, exec_renderline_initialized a l h v hm,
    exec_extractrow_row (by simp [hm]) (by simp [hbpp]) (by simpa using pairedRow_lt hrow),
    fun i hi => ?_,
    exec_extractrow_row (by simp [hm]) (by simp [hbpp]) (by simpa using hrow), fun i hi => ?_⟩
  · rw [State.respond_mem, State.readDst_extracted, if_pos (by simpa using hi), State.respond_remap,
      State.respond_mem, State.rendered_remap, (State.readRaster_rendered_pair hrow hi).1]
  · rw [State.respond_mem, State.readDst_extracted, if_pos (by simpa using hi), State.respond_remap,
      State.respond_mem, State.extracted_remap, State.readRaster_extracted, State.respond_remap,
      State.respond_mem, State.rendered_remap, (State.readRaster_rendered_pair hrow hi).2]

/-! ## A white line -/

/-- The remapper on the union of a format's masks: the three channels are full. -/
theorem extractPixel_masks {r g b : Word} (hwf : wellFormedFormat r g b = true) :
    extractPixel (shiftOf r) (shiftOf g) (shiftOf b) (r ||| g ||| b) = 0x00FFFFFF
    ∧ extractPixel (shiftOf r) (shiftOf g) (shiftOf b) (dim (r ||| g ||| b)) = 0x00BDBDBD := by
  rw [dim_masks hwf]
  obtain ⟨kr, kg, kb, hr, hg, hb, -, -, -, rfl, rfl, rfl⟩ := wellFormedFormat_lanes hwf
  have hfull : ∀ {k}, k < 4 → k = kr ∨ k = kg ∨ k = kb →
      lane k (laneMask kr ||| laneMask kg ||| laneMask kb) = 0xFF := fun hk h => by
    rw [lane_masks hr hg hb hk, if_pos h]
  have hconst : ∀ {k}, k < 4 → lane k 0xBDBDBDBD = 0xBD := fun {k} hk => by
    interval_cases k <;> decide
  rw [extractPixel_lanes hr hg hb, extractPixel_lanes hr hg hb, lane_and, lane_and, lane_and,
    hconst hr, hconst hg, hconst hb, hfull hr (.inl rfl), hfull hg (.inr (.inl rfl)),
    hfull hb (.inr (.inr rfl))]
  exact ⟨by decide, by decide⟩

/-- Settles O53: after INIT every lookup gives the white entry, so a full pixel is the union of the masks
(`fullPixel_white`), which extracts to white (`extractPixel_masks`). -/
theorem whiteLineExtractsToWhite : Obligations.WhiteLineExtractsToWhite := by
  intro s a l h v hok hbpp hwf hsmp hrow
  let t := s.query.initialised.respond 1
  have ht : exec .init s = .next t := by rw [exec_init, State.initialise_of_usable hok hbpp]
  have hlook : t.mem.lookup
      = fun _ => paletteEntry s.surface.rmask s.surface.gmask s.surface.bmask 0xFF := by
    funext k
    have hwhite : t.mem.readSmp (k.toNat % 2048) = 0xFF := by
      rw [← hsmp (k.toNat % 2048) (Nat.mod_lt _ (by decide))]
      exact Memory.readSmp_congr (by simp [t]) _
    rw [Memory.lookup_eq, hwhite]
    exact State.readPal_initialised s.query hwf 0xFF
  obtain ⟨u, w, x, hu, hw, hfull, hx, hdim⟩ := exec_line_rows (s := t) a l h v rfl rfl hrow
  refine ⟨t, u, w, x, ht, hu, hw, fun i hi => ?_, hx, fun i hi => ?_⟩
  · rw [hfull i hi, hlook, fullPixel_white hwf]
    exact (extractPixel_masks hwf).1
  · rw [hdim i hi, hlook, fullPixel_white hwf]
    exact (extractPixel_masks hwf).2

/-! ## Any line, in any well-formed format -/

/-- In the lane of a channel the resampler adds up the expanded components of the samples. -/
theorem laneSum_lookup {m : Memory} {j : Nat} {f : Byte → Nat}
    (h : ∀ k, (lane j (m.lookup k)).toNat = f (m.readSmp (k &&& 0x7FF).toNat)) (ws : List Word)
    (k : Word) : laneSum j m.lookup ws k = Claims.componentSum f m ws k := by
  induction ws generalizing k with
  | nil => rfl
  | cons w ws ih => rw [laneSum, Claims.componentSum, h, ih]

/-- With the palette of a well-formed format built, the remapper reads the three sums back from a full
pixel, and the dimmed sums from a dimmed one. -/
theorem remap_fullPixel {s : State} (hwf : wellFormedFormat s.rmask s.gmask s.bmask = true)
    (hlook : ∀ k, s.mem.lookup k
      = paletteEntry s.rmask s.gmask s.bmask (s.mem.readSmp (k &&& 0x7FF).toNat)) (i : Nat) :
    s.remap (fullPixel s.mem.lookup s.hoff i) = Claims.rgb (Claims.pixelSum expandRed s i)
        (Claims.pixelSum expandGreen s i) (Claims.pixelSum expandBlue s i)
    ∧ s.remap (dim (fullPixel s.mem.lookup s.hoff i)) = Claims.rgb (Claims.pixelSum expandRed s i / 4 * 3)
        (Claims.pixelSum expandGreen s i / 4 * 3) (Claims.pixelSum expandBlue s i / 4 * 3) := by
  obtain ⟨kr, kg, kb, hr, hg, hb, hrg, hgb, hrb, er, eg, eb⟩ := wellFormedFormat_lanes hwf
  have hchannel := fun c => channelLanes_paletteEntry hr hg hb hrg hgb hrb c
  have hsum : ∀ {k : Nat} {f : Byte → Nat}, k < 4 → (∀ c, f c < 256) →
      (∀ c, lane k (paletteEntry (laneMask kr) (laneMask kg) (laneMask kb) c) = BitVec.ofNat 8 (f c)) →
      (lane k (fullPixel s.mem.lookup s.hoff i)).toNat = Claims.pixelSum f s i := by
    intro k f hk hf hlane
    rw [lane_fullPixel _ _ _ hk]
    refine laneSum_lookup (fun q => ?_) _ _
    rw [hlook, er, eg, eb, hlane, toNat_ofNat_byte (hf _)]
  have hred := hsum hr expandRed_lt fun c => (hchannel c).1
  have hgreen := hsum hg expandGreen_lt fun c => (hchannel c).2.1
  have hblue := hsum hb expandBlue_lt fun c => (hchannel c).2.2
  have hremap : ∀ x, s.remap x
      = Claims.rgb (lane kr x).toNat (lane kg x).toNat (lane kb x).toNat := fun x => by
    rw [State.remap, er, eg, eb, extractPixel_lanes hr hg hb, packRgb_eq_rgb]
  rw [hremap, hremap, lane_dim _ hr, lane_dim _ hg, lane_dim _ hb, hred, hgreen, hblue]
  exact ⟨rfl, rfl⟩

/-- The palette of the invariant makes every lookup an entry of the latched format. -/
theorem State.Inv.lookup {s : State} (h : s.Inv) (hm : s.mode = .initialized)
    (hwf : wellFormedFormat s.rmask s.gmask s.bmask = true) (k : Word) :
    s.mem.lookup k = paletteEntry s.rmask s.gmask s.bmask (s.mem.readSmp (k &&& 0x7FF).toNat) := by
  rw [Memory.lookup, Memory.readPal_of_find (h.palette hm hwf _ (BitVec.isLt _)), BitVec.ofNat_toNat,
    BitVec.setWidth_eq]

/-- Settles O54: the two rows are the remapped pixels of the line (`exec_line_rows`), which
`remap_fullPixel` reads as sums that name no mask. -/
theorem extractedLineIgnoresChannelOrder : Obligations.ExtractedLineIgnoresChannelOrder := by
  intro s a l h v hinv hm hwf hrow
  obtain ⟨u, w, x, hu, hw, hfull, hx, hdim⟩ := exec_line_rows a l h v hm (hinv.bpp hm) hrow
  have hpixel := remap_fullPixel hwf (hinv.lookup hm hwf)
  exact ⟨u, w, x, hu, hw, fun i hi => (hfull i hi).trans (hpixel i).1, hx,
    fun i hi => (hdim i hi).trans (hpixel i).2⟩

/-! ## Rising lines, then a smaller one -/

theorem renderLines_cons {s t : State} {q : Word × Word × Word × Word}
    (h : exec (.renderline q.1 q.2.1 q.2.2.1 q.2.2.2) s = .next t)
    (ls : List (Word × Word × Word × Word)) :
    Claims.renderLines (q :: ls) s = Claims.renderLines ls t := by
  rw [Claims.renderLines, h]

/-- Lines that do not decrease emit no event and change nothing that the statement asks for. -/
theorem renderLines_rising (ls : List (Word × Word × Word × Word)) (s : State)
    (hm : s.mode = .initialized)
    (hrise : (s.prevline :: ls.map fun x => x.2.1).Pairwise (fun p q => p.toNat ≤ q.toNat)) :
    ∃ t, Claims.renderLines ls s = .next t ∧ t.mode = .initialized ∧ t.bpp = s.bpp
      ∧ t.strap = s.strap ∧ t.frameEvents = s.frameEvents
      ∧ t.prevline = (s.prevline :: ls.map fun x => x.2.1).getLast (by simp) := by
  induction ls generalizing s with
  | nil => exact ⟨s, rfl, hm, rfl, rfl, rfl, rfl⟩
  | cons q ls ih =>
    obtain ⟨hfirst, hrest⟩ := List.pairwise_cons.1 hrise
    have hline : s.prevline.toNat ≤ q.2.1.toNat := hfirst _ (by simp)
    let t := (s.rendered q.2.1).respond 0
    have hprev : t.prevline = q.2.1 := s.rendered_prevline _
    have hevents : t.frameEvents = s.frameEvents :=
      (s.rendered_frameEvents_lt _).trans (if_neg (by omega))
    obtain ⟨u, hu, hum, hubpp, hustrap, hue, hup⟩ :=
      ih t ((s.rendered_mode _).trans hm) (by rw [hprev]; exact hrest)
    refine ⟨u, ?_, hum, hubpp.trans (s.rendered_bpp _), hustrap.trans (s.rendered_strap _),
      hue.trans hevents, ?_⟩
    · rw [renderLines_cons (exec_renderline_initialized _ _ _ _ hm), ← hu]
    · simp only [hprev] at hup
      exact hup

theorem extractPixel_zero (rsh gsh bsh : Nat) : extractPixel rsh gsh bsh 0 = 0 := by
  simp [extractPixel]

/-- Settles O35: the last line is below `PREVLINE`, so its boundary blanks every row whose flag is
clear, and a blank row extracts to zeros. -/
theorem monotoneLinesThenSmallerFlipOnce : Obligations.MonotoneLinesThenSmallerFlipOnce := by
  intro s ls a l h v hm hbpp hrise hsmaller
  obtain ⟨t, ht, htm, htbpp, htstrap, hte, htp⟩ := renderLines_rising ls s hm hrise
  rw [← htp] at hsmaller
  have hwidth : t.width = s.width := by rw [State.width_eq, htstrap]; rfl
  have hheight : t.height = s.height := by rw [State.height_eq, htstrap]; rfl
  let u := (t.rendered l).respond 0
  have hue : u.frameEvents = s.frameEvents + 1 := by
    rw [← hte]
    exact (t.rendered_frameEvents_lt l).trans (if_pos hsmaller)
  refine ⟨t, u, ht, hte, exec_renderline_initialized a l h v htm, hue, fun r hr hclear hnot => ?_⟩
  rw [← hheight] at hr
  refine ⟨_, exec_extractrow_row (s := u) ((t.rendered_mode l).trans htm)
    ((t.rendered_bpp l).trans (htbpp.trans hbpp)) (by rw [← t.rendered_height l] at hr; exact hr),
    fun i hi => ?_⟩
  rw [← hwidth] at hi
  have hblank : u.mem.readRaster r.toNat i = 0 := by
    refine (t.readRaster_rendered l _ i hi).trans ?_
    rw [if_neg fun h => hnot ⟨h.1, .inr h.2⟩, if_neg fun h => hnot ⟨h.1, .inl h.2⟩,
      if_pos ⟨hsmaller, hr, hclear⟩]
  rw [State.respond_mem, State.readDst_extracted, if_pos (by rw [← t.rendered_width l] at hi; exact hi),
    hblank]
  exact extractPixel_zero _ _ _

end Sys2Proof.Machine
end

section
/-! PROOFS. A run of commands and its observable result (spec/70_reset_and_hazards.md rule R224). -/

namespace Sys2Proof.Machine

/-! ## The trace of a list of commands -/

theorem trace_cons {i : Instr} {s t : State} (h : exec i s = .next t) (is : List Instr) :
    Claims.trace (i :: is) s = (i, t) :: Claims.trace is t := by
  rw [Claims.trace, h]

theorem finalState_cons {i : Instr} {s t : State} (h : exec i s = .next t) (is : List Instr) :
    Claims.finalState (i :: is) s = Claims.finalState is t := by
  show ((Claims.trace (i :: is) s).getLast?.map Prod.snd).getD s = _
  rw [trace_cons h, List.getLast?_cons]
  show (((Claims.trace is t).getLast?.getD (i, t))).2 = ((Claims.trace is t).getLast?.map Prod.snd).getD t
  cases (Claims.trace is t).getLast? <;> rfl

/-- Every command of the list is executed, in order. -/
theorem trace_map_fst (is : List Instr) (s : State) : (Claims.trace is s).map Prod.fst = is := by
  induction is generalizing s with
  | nil => rfl
  | cons i is ih =>
    obtain ⟨t, he, -⟩ := exec_effect i s
    rw [trace_cons he, List.map_cons, ih]

/-- The responses of a list of commands, the first one first. -/
def answers (is : List Instr) (s : State) : List Response :=
  (Claims.trace is s).filterMap fun e => e.2.responses.head?

theorem answers_cons {i : Instr} {s t : State} {r : Response} (h : exec i s = .next t)
    (hr : t.responses = r :: s.responses) (is : List Instr) :
    answers (i :: is) s = r :: answers is t := by
  rw [answers, trace_cons h, List.filterMap_cons_some (b := r) (by rw [hr]; rfl), answers]

/-- One response per command. -/
theorem answers_length (is : List Instr) (s : State) : (answers is s).length = is.length := by
  induction is generalizing s with
  | nil => rfl
  | cons i is ih =>
    obtain ⟨t, r, he, -, -, -, hr⟩ := exec_port i s []
    rw [answers_cons he hr, List.length_cons, List.length_cons, ih]

/-- The responses are given on top of those before. -/
theorem finalState_responses (is : List Instr) (s : State) :
    (Claims.finalState is s).responses = (answers is s).reverse ++ s.responses := by
  induction is generalizing s with
  | nil => rfl
  | cons i is ih =>
    obtain ⟨t, r, he, -, -, -, hr⟩ := exec_port i s []
    rw [finalState_cons he, ih, answers_cons he hr, hr, List.reverse_cons, List.append_assoc,
      List.singleton_append]

theorem finalState_host (is : List Instr) (s : State) : (Claims.finalState is s).host = s.host := by
  induction is generalizing s with
  | nil => rfl
  | cons i is ih =>
    obtain ⟨t, r, he, -, -, hh, -⟩ := exec_port i s []
    rw [finalState_cons he, ih, hh]

/-! ## The run of their packets -/

/-- The state with the packets of a list of commands on the port. -/
def withPackets (is : List Instr) (s : State) : State := { s with port := is.flatMap encode }

theorem fetch_withPackets {i : Instr} (hwf : i.wellFormed = true) (is : List Instr) (s : State) :
    fetch (withPackets (i :: is) s).port = .command i (is.flatMap encode) :=
  fetch_of_decode (decodeInvertsEncode i _ hwf)

/-- One step executes the first command, whatever else the port holds (`exec_port`). -/
theorem step_withPackets {i : Instr} {s t : State} (hwf : i.wellFormed = true)
    (he : exec i s = .next t) (is : List Instr) :
    step (withPackets (i :: is) s) = .next (withPackets is t) := by
  obtain ⟨t', -, he', hport, -⟩ := exec_port i s (is.flatMap encode)
  rw [he] at he'
  cases he'
  rw [step_of_command (fetch_withPackets hwf is s)]
  exact hport

theorem lastState_withPackets (is : List Instr) (s : State) (hwf : ∀ i ∈ is, i.wellFormed = true) :
    lastState is.length (withPackets is s) = withPackets [] (Claims.finalState is s) := by
  induction is generalizing s with
  | nil => rfl
  | cons i is ih =>
    obtain ⟨hi, his⟩ := List.forall_mem_cons.1 hwf
    obtain ⟨t, he, -⟩ := exec_effect i s
    rw [List.length_cons, lastState_next (step_withPackets hi he is), ih t his, finalState_cons he]

/-- The contents of `DST` after an EXTRACTROW. -/
def extractedRow (e : Instr × State) : Option (List Word) :=
  if e.1.extracts then some e.2.dstContents else none

theorem extractedRows_withPackets (is : List Instr) (s : State)
    (hwf : ∀ i ∈ is, i.wellFormed = true) :
    extractedRows is.length (withPackets is s) = (Claims.trace is s).filterMap extractedRow := by
  induction is generalizing s with
  | nil => rfl
  | cons i is ih =>
    obtain ⟨hi, his⟩ := List.forall_mem_cons.1 hwf
    obtain ⟨t, he, -⟩ := exec_effect i s
    rw [List.length_cons, extractedRows_next (step_withPackets hi he is), ih t his, trace_cons he,
      State.extracts_of_fetch (fetch_withPackets hi is s)]
    cases hx : i.extracts with
    | true =>
      rw [List.filterMap_cons_some (b := t.dstContents) (by rw [extractedRow, hx]; rfl)]
      rfl
    | false =>
      rw [List.filterMap_cons_none (by rw [extractedRow, hx]; rfl)]
      rfl

/-- With the port empty and the script at its end the machine stops. -/
theorem step_of_finished {s : State} (hport : s.port = []) (hhost : s.host = []) :
    step s = .fault .noCommand := by
  have hf : fetch s.port = .incomplete := by rw [hport]; rfl
  rw [step_of_incomplete hf, hostTurn_of_end hhost, if_pos hport]

/-- Settles O60: the run ends in the final state with the port empty (`lastState_withPackets`), one
response per command was given on top of the earlier ones (`finalState_responses`), and the rows are
those of the trace (`extractedRows_withPackets`). -/
theorem runOfCommandsIsObserved : Obligations.RunOfCommandsIsObserved := by
  intro is s hwf hhost s₀ t o
  have hlast : lastState is.length s₀ = withPackets [] t := lastState_withPackets is s hwf
  have hgiven : o.responses = answers is s := by
    have hresp : (lastState is.length s₀).responses = (answers is s).reverse ++ s₀.responses := by
      rw [hlast]
      exact finalState_responses is s
    exact (responsesSince_append hresp).trans (List.reverse_reverse _)
  have hprops : o.properties = t.properties := by
    show (lastState is.length s₀).properties = _
    rw [hlast]
    rfl
  have hrows : o.rows = (Claims.trace is s).filterMap extractedRow :=
    extractedRows_withPackets is s hwf
  refine ⟨?_, trace_map_fst is s, hgiven, ?_, ?_, ?_, ?_⟩
  · rw [hlast]
    exact step_of_finished rfl ((finalState_host is s).trans hhost)
  · rw [hgiven, answers_length]
  · show (lastState is.length s₀).frameEvents = _
    rw [hlast]
    rfl
  · rw [hrows]
    refine List.filterMap_congr fun e _ => ?_
    obtain ⟨i, u⟩ := e
    cases i <;> rfl
  · rw [hprops]
    exact ⟨exec_getpropHoff t, exec_getpropVoff t, exec_getpropFullscreen t, exec_getpropWidth t,
      exec_getpropHeight t, exec_getpropDebug t⟩

end Sys2Proof.Machine
end
